-- ==== Sys2Proof/Word.lean ====
section
/-! DEFINITION. The two word types of the machine (spec/00_scope.md rule R9): bus data and the CPU's
registers are 8 bits, bus addresses and the program counter are 16 bits. -/

namespace Sys2Proof

/-- A byte: bus data, a CPU register, an APU register, a bank register (rule R9). -/
abbrev Byte := BitVec 8

/-- A 16-bit number: a bus address, the program counter, an AY register value (rule R9). -/
abbrev Word := BitVec 16

end Sys2Proof
end

