-- ==== Sys2Proof/Syntax.lean ====
section
/-! DEFINITION. The instructions of spec/opcode_table.json: the 44 mnemonics of the 6502 subset (spec/30_encoding.md
rule R118), each with its operand form, and the register commands of the APU (rules R192 to R215), of the bank
registers (rule R88) and of the AY (rules R153 to R159). A mnemonic that the table lists in several addressing
modes is one constructor, and the mode is its operand. -/

namespace Sys2Proof

/-- The addressing modes that name a byte of the bus (rules R123 to R125, R127 to R129, R131, R132). -/
inductive MemMode where
  /-- zero-page, rule R123 -/
  | zp (d : Byte)
  /-- zero-page,X, rule R124 -/
  | zpx (d : Byte)
  /-- zero-page,Y, rule R125 -/
  | zpy (d : Byte)
  /-- absolute, rule R127 -/
  | abs (w : Word)
  /-- absolute,X, rule R128 -/
  | absx (w : Word)
  /-- absolute,Y, rule R129 -/
  | absy (w : Word)
  /-- indexed-indirect, `(zp,X)`, rule R131 -/
  | indx (d : Byte)
  /-- indirect-indexed, `(zp),Y`, rule R132 -/
  | indy (d : Byte)
  deriving DecidableEq, Repr

/-- The operand of an instruction that reads one byte: the byte itself (immediate, rule R122) or a byte of the bus. -/
inductive Src where
  | imm (d : Byte)
  | mem (m : MemMode)
  deriving DecidableEq, Repr

/-- The operand and destination of a shift or rotate: the accumulator (rule R121, `implied` set) or a byte of
the bus. -/
inductive Tgt where
  | acc
  | mem (m : MemMode)
  deriving DecidableEq, Repr

/-- The target of a JMP: absolute (rule R127) or indirect (rule R130). -/
inductive JumpMode where
  | abs (w : Word)
  | ind (w : Word)
  deriving DecidableEq, Repr

/-- The APU registers that have no field (rule R215): 0x4009, 0x400D, 0x4014, 0x4016 and 0x4018 to 0x401F. -/
inductive UnlistedReg where
  | r09
  | r0D
  | r14
  | r16
  /-- register `0x18 + k` -/
  | high (k : BitVec 3)
  deriving DecidableEq, Repr

/-- The three tone channels of the AY. -/
inductive AyChannel where
  | A
  | B
  | C
  deriving DecidableEq, Repr

/-- The two I/O port registers of the AY, 14 and 15 (rule R159). -/
inductive AyPort where
  | reg14
  | reg15
  deriving DecidableEq, Repr

/-- A register command as the host or a store issues it: a bus write, or a write to the AY's own register space
(rules R134, R142, R145). -/
inductive Command where
  | bus (addr : Word) (v : Byte)
  | ay (reg : Nat) (v : Word)
  deriving DecidableEq, Repr

/-- The instructions. `v` is always the value written by a register command. -/
inductive Instr where
  | brk
  | ora (m : Src)
  | asl (t : Tgt)
  | bpl (d : Byte)
  | clc
  | jsr (w : Word)
  | and (m : Src)
  | bit (m : MemMode)
  | rol (t : Tgt)
  | bmi (d : Byte)
  | sec
  | eor (m : Src)
  | lsr (t : Tgt)
  | pha
  | jmp (j : JumpMode)
  | rts
  | adc (m : Src)
  | ror (t : Tgt)
  | pla
  | sta (m : MemMode)
  | sty (m : MemMode)
  | stx (m : MemMode)
  | dey
  | txa
  | bcc (d : Byte)
  | tya
  | ldy (m : Src)
  | lda (m : Src)
  | ldx (m : Src)
  | tay
  | tax
  | bcs (d : Byte)
  | cpy (m : Src)
  | cmp (m : Src)
  | dec (m : MemMode)
  | iny
  | dex
  | bne (d : Byte)
  | cpx (m : Src)
  | sbc (m : Src)
  | inc (m : MemMode)
  | inx
  | nop
  | beq (d : Byte)
  | apuPulse1Control (v : Byte)
  | apuPulse1Sweep (v : Byte)
  | apuPulse1TimerLow (v : Byte)
  | apuPulse1Length (v : Byte)
  | apuPulse2Control (v : Byte)
  | apuPulse2Sweep (v : Byte)
  | apuPulse2TimerLow (v : Byte)
  | apuPulse2Length (v : Byte)
  | apuTriangleControl (v : Byte)
  | apuTriangleTimerLow (v : Byte)
  | apuTriangleLength (v : Byte)
  | apuNoiseControl (v : Byte)
  | apuNoiseMode (v : Byte)
  | apuNoiseLength (v : Byte)
  | apuDmcControl (v : Byte)
  | apuDmcDelta (v : Byte)
  | apuDmcAddress (v : Byte)
  | apuDmcLength (v : Byte)
  | apuEnables (v : Byte)
  | apuFrameCounter (v : Byte)
  | apuUnlisted (r : UnlistedReg) (v : Byte)
  /-- a write to bus address `0x5000 + off`, any of 0x5000 to 0x5FFF (rules R76 and R88) -/
  | bankSelect (off : BitVec 12) (v : Byte)
  | ayToneLow (c : AyChannel) (v : Word)
  | ayToneHigh (c : AyChannel) (v : Word)
  | ayNoisePeriod (v : Word)
  | ayMixer (v : Word)
  | ayAmplitude (c : AyChannel) (v : Word)
  | ayEnvPeriodLow (v : Word)
  | ayEnvPeriodHigh (v : Word)
  | ayEnvShape (v : Word)
  | ayPort (p : AyPort) (v : Word)
  deriving DecidableEq, Repr

end Sys2Proof
end

