-- ==== Sys2Proof/WellFormed.lean ====
section
/-! DEFINITION. Which addressing modes each mnemonic has (spec/30_encoding.md rule R118): an instruction is
well-formed exactly when the opcode table has a row for it. Instructions with one form, and register commands, are
well-formed by construction. -/

namespace Sys2Proof

/-- The memory modes of ADC, SBC, AND, ORA, EOR, CMP, LDA and STA: all but zero-page,Y. -/
def MemMode.isAlu : MemMode → Bool
  | .zpy _ => false
  | .zp _ | .zpx _ | .abs _ | .absx _ | .absy _ | .indx _ | .indy _ => true

/-- The memory modes of ASL, LSR, ROL, ROR, INC and DEC, and of LDY. -/
def MemMode.isXOnly : MemMode → Bool
  | .zp _ | .zpx _ | .abs _ | .absx _ => true
  | .zpy _ | .absy _ | .indx _ | .indy _ => false

/-- The memory modes of LDX. -/
def MemMode.isYOnly : MemMode → Bool
  | .zp _ | .zpy _ | .abs _ | .absy _ => true
  | .zpx _ | .absx _ | .indx _ | .indy _ => false

/-- The memory modes of BIT, CPX and CPY. -/
def MemMode.isPlain : MemMode → Bool
  | .zp _ | .abs _ => true
  | .zpx _ | .zpy _ | .absx _ | .absy _ | .indx _ | .indy _ => false

/-- The memory modes of STX. -/
def MemMode.isStx : MemMode → Bool
  | .zp _ | .zpy _ | .abs _ => true
  | .zpx _ | .absx _ | .absy _ | .indx _ | .indy _ => false

/-- The memory modes of STY. -/
def MemMode.isSty : MemMode → Bool
  | .zp _ | .zpx _ | .abs _ => true
  | .zpy _ | .absx _ | .absy _ | .indx _ | .indy _ => false

/-- A read operand is admitted when it is immediate or its memory mode is. -/
def Src.admits (ok : MemMode → Bool) : Src → Bool
  | .imm _ => true
  | .mem m => ok m

/-- A shift operand is admitted when it is the accumulator or its memory mode is. -/
def Tgt.admits (ok : MemMode → Bool) : Tgt → Bool
  | .acc => true
  | .mem m => ok m

/-- The opcode table has a row for the instruction (rule R118). -/
def Instr.wf : Instr → Bool
  | .ora m | .and m | .eor m | .adc m | .sbc m | .cmp m | .lda m => m.admits MemMode.isAlu
  | .asl t | .lsr t | .rol t | .ror t => t.admits MemMode.isXOnly
  | .inc m | .dec m => m.isXOnly
  | .bit m => m.isPlain
  | .cpx m | .cpy m => m.admits MemMode.isPlain
  | .ldx m => m.admits MemMode.isYOnly
  | .ldy m => m.admits MemMode.isXOnly
  | .sta m => m.isAlu
  | .stx m => m.isStx
  | .sty m => m.isSty
  | .brk | .rts | .pha | .pla | .clc | .sec | .nop => true
  | .tax | .tay | .txa | .tya | .inx | .iny | .dex | .dey => true
  | .jsr _ | .jmp _ => true
  | .bcc _ | .bcs _ | .beq _ | .bne _ | .bmi _ | .bpl _ => true
  | .apuPulse1Control _ | .apuPulse1Sweep _ | .apuPulse1TimerLow _ | .apuPulse1Length _ => true
  | .apuPulse2Control _ | .apuPulse2Sweep _ | .apuPulse2TimerLow _ | .apuPulse2Length _ => true
  | .apuTriangleControl _ | .apuTriangleTimerLow _ | .apuTriangleLength _ => true
  | .apuNoiseControl _ | .apuNoiseMode _ | .apuNoiseLength _ => true
  | .apuDmcControl _ | .apuDmcDelta _ | .apuDmcAddress _ | .apuDmcLength _ => true
  | .apuEnables _ | .apuFrameCounter _ | .apuUnlisted _ _ | .bankSelect _ _ => true
  | .ayToneLow _ _ | .ayToneHigh _ _ | .ayNoisePeriod _ | .ayMixer _ | .ayAmplitude _ _ => true
  | .ayEnvPeriodLow _ | .ayEnvPeriodHigh _ | .ayEnvShape _ | .ayPort _ _ => true

/-- Whether an instruction is one of the CPU's 44 mnemonics (the others are register commands, which the host
issues). -/
def Instr.isCpu : Instr → Bool
  | .apuPulse1Control _ | .apuPulse1Sweep _ | .apuPulse1TimerLow _ | .apuPulse1Length _ => false
  | .apuPulse2Control _ | .apuPulse2Sweep _ | .apuPulse2TimerLow _ | .apuPulse2Length _ => false
  | .apuTriangleControl _ | .apuTriangleTimerLow _ | .apuTriangleLength _ => false
  | .apuNoiseControl _ | .apuNoiseMode _ | .apuNoiseLength _ => false
  | .apuDmcControl _ | .apuDmcDelta _ | .apuDmcAddress _ | .apuDmcLength _ => false
  | .apuEnables _ | .apuFrameCounter _ | .apuUnlisted _ _ | .bankSelect _ _ => false
  | .ayToneLow _ _ | .ayToneHigh _ _ | .ayNoisePeriod _ | .ayMixer _ | .ayAmplitude _ _ => false
  | .ayEnvPeriodLow _ | .ayEnvPeriodHigh _ | .ayEnvShape _ | .ayPort _ _ => false
  | .ora _ | .and _ | .eor _ | .adc _ | .sbc _ | .cmp _ | .lda _ => true
  | .asl _ | .lsr _ | .rol _ | .ror _ | .inc _ | .dec _ | .bit _ => true
  | .cpx _ | .cpy _ | .ldx _ | .ldy _ | .sta _ | .stx _ | .sty _ => true
  | .brk | .rts | .pha | .pla | .clc | .sec | .nop => true
  | .tax | .tay | .txa | .tya | .inx | .iny | .dex | .dey => true
  | .jsr _ | .jmp _ => true
  | .bcc _ | .bcs _ | .beq _ | .bne _ | .bmi _ | .bpl _ => true

end Sys2Proof
end

