-- ==== Sys2Proof/Decode.lean ====
section
/-! DEFINITION. Decoding and encoding (spec/30_encoding.md). The CPU's bytes: one lookup of the opcode byte in the
matrix of rule R115, then the operand bytes of its format (rule R110). The register commands: the address or the
register number selects the instruction (rules R134, R142, R145). After the decoder, the encoder, written from the
per-mnemonic table of rule R118. -/

namespace Sys2Proof

/-- Why bytes decode to no instruction. -/
inductive DecodeError where
  /-- the opcode byte is one of the 117 undefined ones (rule R119) -/
  | undefinedOpcode (op : Byte)
  /-- fewer bytes than the instruction's length (rule R111); a fetch always offers three, so it cannot meet this -/
  | truncated
  deriving DecidableEq, Repr

/-- The three instruction formats (rule R110): no operand byte, one, or two. -/
inductive Form where
  | f1 (i : Instr)
  | f2 (make : Byte → Instr)
  | f3 (make : Word → Instr)

/-- The 16-bit number `{hi, lo}` (rules R90 and R112). -/
def wordOf (lo hi : Byte) : Word := hi ++ lo

/-- The low byte of a 16-bit number. -/
def lowByte (w : Word) : Byte := w.setWidth 8

/-- The high byte of a 16-bit number. -/
def highByte (w : Word) : Byte := (w >>> 8).setWidth 8

/-- The opcode matrix (rule R115): 139 defined bytes, the other 117 undefined (rule R119). -/
def opcodeTable (op : Byte) : Option Form :=
  match op with
  | 0x00#8 => some (.f1 .brk)
  | 0x01#8 => some (.f2 fun d => .ora (.mem (.indx d)))
  | 0x05#8 => some (.f2 fun d => .ora (.mem (.zp d)))
  | 0x06#8 => some (.f2 fun d => .asl (.mem (.zp d)))
  | 0x09#8 => some (.f2 fun d => .ora (.imm d))
  | 0x0A#8 => some (.f1 (.asl .acc))
  | 0x0D#8 => some (.f3 fun w => .ora (.mem (.abs w)))
  | 0x0E#8 => some (.f3 fun w => .asl (.mem (.abs w)))
  | 0x10#8 => some (.f2 .bpl)
  | 0x11#8 => some (.f2 fun d => .ora (.mem (.indy d)))
  | 0x15#8 => some (.f2 fun d => .ora (.mem (.zpx d)))
  | 0x16#8 => some (.f2 fun d => .asl (.mem (.zpx d)))
  | 0x18#8 => some (.f1 .clc)
  | 0x19#8 => some (.f3 fun w => .ora (.mem (.absy w)))
  | 0x1D#8 => some (.f3 fun w => .ora (.mem (.absx w)))
  | 0x1E#8 => some (.f3 fun w => .asl (.mem (.absx w)))
  | 0x20#8 => some (.f3 .jsr)
  | 0x21#8 => some (.f2 fun d => .and (.mem (.indx d)))
  | 0x24#8 => some (.f2 fun d => .bit (.zp d))
  | 0x25#8 => some (.f2 fun d => .and (.mem (.zp d)))
  | 0x26#8 => some (.f2 fun d => .rol (.mem (.zp d)))
  | 0x29#8 => some (.f2 fun d => .and (.imm d))
  | 0x2A#8 => some (.f1 (.rol .acc))
  | 0x2C#8 => some (.f3 fun w => .bit (.abs w))
  | 0x2D#8 => some (.f3 fun w => .and (.mem (.abs w)))
  | 0x2E#8 => some (.f3 fun w => .rol (.mem (.abs w)))
  | 0x30#8 => some (.f2 .bmi)
  | 0x31#8 => some (.f2 fun d => .and (.mem (.indy d)))
  | 0x35#8 => some (.f2 fun d => .and (.mem (.zpx d)))
  | 0x36#8 => some (.f2 fun d => .rol (.mem (.zpx d)))
  | 0x38#8 => some (.f1 .sec)
  | 0x39#8 => some (.f3 fun w => .and (.mem (.absy w)))
  | 0x3D#8 => some (.f3 fun w => .and (.mem (.absx w)))
  | 0x3E#8 => some (.f3 fun w => .rol (.mem (.absx w)))
  | 0x41#8 => some (.f2 fun d => .eor (.mem (.indx d)))
  | 0x45#8 => some (.f2 fun d => .eor (.mem (.zp d)))
  | 0x46#8 => some (.f2 fun d => .lsr (.mem (.zp d)))
  | 0x48#8 => some (.f1 .pha)
  | 0x49#8 => some (.f2 fun d => .eor (.imm d))
  | 0x4A#8 => some (.f1 (.lsr .acc))
  | 0x4C#8 => some (.f3 fun w => .jmp (.abs w))
  | 0x4D#8 => some (.f3 fun w => .eor (.mem (.abs w)))
  | 0x4E#8 => some (.f3 fun w => .lsr (.mem (.abs w)))
  | 0x51#8 => some (.f2 fun d => .eor (.mem (.indy d)))
  | 0x55#8 => some (.f2 fun d => .eor (.mem (.zpx d)))
  | 0x56#8 => some (.f2 fun d => .lsr (.mem (.zpx d)))
  | 0x59#8 => some (.f3 fun w => .eor (.mem (.absy w)))
  | 0x5D#8 => some (.f3 fun w => .eor (.mem (.absx w)))
  | 0x5E#8 => some (.f3 fun w => .lsr (.mem (.absx w)))
  | 0x60#8 => some (.f1 .rts)
  | 0x61#8 => some (.f2 fun d => .adc (.mem (.indx d)))
  | 0x65#8 => some (.f2 fun d => .adc (.mem (.zp d)))
  | 0x66#8 => some (.f2 fun d => .ror (.mem (.zp d)))
  | 0x68#8 => some (.f1 .pla)
  | 0x69#8 => some (.f2 fun d => .adc (.imm d))
  | 0x6A#8 => some (.f1 (.ror .acc))
  | 0x6C#8 => some (.f3 fun w => .jmp (.ind w))
  | 0x6D#8 => some (.f3 fun w => .adc (.mem (.abs w)))
  | 0x6E#8 => some (.f3 fun w => .ror (.mem (.abs w)))
  | 0x71#8 => some (.f2 fun d => .adc (.mem (.indy d)))
  | 0x75#8 => some (.f2 fun d => .adc (.mem (.zpx d)))
  | 0x76#8 => some (.f2 fun d => .ror (.mem (.zpx d)))
  | 0x79#8 => some (.f3 fun w => .adc (.mem (.absy w)))
  | 0x7D#8 => some (.f3 fun w => .adc (.mem (.absx w)))
  | 0x7E#8 => some (.f3 fun w => .ror (.mem (.absx w)))
  | 0x81#8 => some (.f2 fun d => .sta (.indx d))
  | 0x84#8 => some (.f2 fun d => .sty (.zp d))
  | 0x85#8 => some (.f2 fun d => .sta (.zp d))
  | 0x86#8 => some (.f2 fun d => .stx (.zp d))
  | 0x88#8 => some (.f1 .dey)
  | 0x8A#8 => some (.f1 .txa)
  | 0x8C#8 => some (.f3 fun w => .sty (.abs w))
  | 0x8D#8 => some (.f3 fun w => .sta (.abs w))
  | 0x8E#8 => some (.f3 fun w => .stx (.abs w))
  | 0x90#8 => some (.f2 .bcc)
  | 0x91#8 => some (.f2 fun d => .sta (.indy d))
  | 0x94#8 => some (.f2 fun d => .sty (.zpx d))
  | 0x95#8 => some (.f2 fun d => .sta (.zpx d))
  | 0x96#8 => some (.f2 fun d => .stx (.zpy d))
  | 0x98#8 => some (.f1 .tya)
  | 0x99#8 => some (.f3 fun w => .sta (.absy w))
  | 0x9D#8 => some (.f3 fun w => .sta (.absx w))
  | 0xA0#8 => some (.f2 fun d => .ldy (.imm d))
  | 0xA1#8 => some (.f2 fun d => .lda (.mem (.indx d)))
  | 0xA2#8 => some (.f2 fun d => .ldx (.imm d))
  | 0xA4#8 => some (.f2 fun d => .ldy (.mem (.zp d)))
  | 0xA5#8 => some (.f2 fun d => .lda (.mem (.zp d)))
  | 0xA6#8 => some (.f2 fun d => .ldx (.mem (.zp d)))
  | 0xA8#8 => some (.f1 .tay)
  | 0xA9#8 => some (.f2 fun d => .lda (.imm d))
  | 0xAA#8 => some (.f1 .tax)
  | 0xAC#8 => some (.f3 fun w => .ldy (.mem (.abs w)))
  | 0xAD#8 => some (.f3 fun w => .lda (.mem (.abs w)))
  | 0xAE#8 => some (.f3 fun w => .ldx (.mem (.abs w)))
  | 0xB0#8 => some (.f2 .bcs)
  | 0xB1#8 => some (.f2 fun d => .lda (.mem (.indy d)))
  | 0xB4#8 => some (.f2 fun d => .ldy (.mem (.zpx d)))
  | 0xB5#8 => some (.f2 fun d => .lda (.mem (.zpx d)))
  | 0xB6#8 => some (.f2 fun d => .ldx (.mem (.zpy d)))
  | 0xB9#8 => some (.f3 fun w => .lda (.mem (.absy w)))
  | 0xBC#8 => some (.f3 fun w => .ldy (.mem (.absx w)))
  | 0xBD#8 => some (.f3 fun w => .lda (.mem (.absx w)))
  | 0xBE#8 => some (.f3 fun w => .ldx (.mem (.absy w)))
  | 0xC0#8 => some (.f2 fun d => .cpy (.imm d))
  | 0xC1#8 => some (.f2 fun d => .cmp (.mem (.indx d)))
  | 0xC4#8 => some (.f2 fun d => .cpy (.mem (.zp d)))
  | 0xC5#8 => some (.f2 fun d => .cmp (.mem (.zp d)))
  | 0xC6#8 => some (.f2 fun d => .dec (.zp d))
  | 0xC8#8 => some (.f1 .iny)
  | 0xC9#8 => some (.f2 fun d => .cmp (.imm d))
  | 0xCA#8 => some (.f1 .dex)
  | 0xCC#8 => some (.f3 fun w => .cpy (.mem (.abs w)))
  | 0xCD#8 => some (.f3 fun w => .cmp (.mem (.abs w)))
  | 0xCE#8 => some (.f3 fun w => .dec (.abs w))
  | 0xD0#8 => some (.f2 .bne)
  | 0xD1#8 => some (.f2 fun d => .cmp (.mem (.indy d)))
  | 0xD5#8 => some (.f2 fun d => .cmp (.mem (.zpx d)))
  | 0xD6#8 => some (.f2 fun d => .dec (.zpx d))
  | 0xD9#8 => some (.f3 fun w => .cmp (.mem (.absy w)))
  | 0xDD#8 => some (.f3 fun w => .cmp (.mem (.absx w)))
  | 0xDE#8 => some (.f3 fun w => .dec (.absx w))
  | 0xE0#8 => some (.f2 fun d => .cpx (.imm d))
  | 0xE1#8 => some (.f2 fun d => .sbc (.mem (.indx d)))
  | 0xE4#8 => some (.f2 fun d => .cpx (.mem (.zp d)))
  | 0xE5#8 => some (.f2 fun d => .sbc (.mem (.zp d)))
  | 0xE6#8 => some (.f2 fun d => .inc (.zp d))
  | 0xE8#8 => some (.f1 .inx)
  | 0xE9#8 => some (.f2 fun d => .sbc (.imm d))
  | 0xEA#8 => some (.f1 .nop)
  | 0xEC#8 => some (.f3 fun w => .cpx (.mem (.abs w)))
  | 0xED#8 => some (.f3 fun w => .sbc (.mem (.abs w)))
  | 0xEE#8 => some (.f3 fun w => .inc (.abs w))
  | 0xF0#8 => some (.f2 .beq)
  | 0xF1#8 => some (.f2 fun d => .sbc (.mem (.indy d)))
  | 0xF5#8 => some (.f2 fun d => .sbc (.mem (.zpx d)))
  | 0xF6#8 => some (.f2 fun d => .inc (.zpx d))
  | 0xF9#8 => some (.f3 fun w => .sbc (.mem (.absy w)))
  | 0xFD#8 => some (.f3 fun w => .sbc (.mem (.absx w)))
  | 0xFE#8 => some (.f3 fun w => .inc (.absx w))
  | _ => none

/-- Decode the instruction at the head of `bytes`, and give back the bytes after it (rules R110 to R112). -/
def decode (bytes : List Byte) : Except DecodeError (Instr × List Byte) :=
  match bytes with
  | [] => .error .truncated
  | op :: rest =>
    match opcodeTable op, rest with
    | none, _ => .error (.undefinedOpcode op)
    | some (.f1 i), rest => .ok (i, rest)
    | some (.f2 make), d :: rest => .ok (make d, rest)
    | some (.f2 _), [] => .error .truncated
    | some (.f3 make), lo :: hi :: rest => .ok (make (wordOf lo hi), rest)
    | some (.f3 _), [_] => .error .truncated
    | some (.f3 _), [] => .error .truncated

/-- The APU register command that a write of `v` to register `i` of the window is (rule R134). -/
def decodeApu (i : BitVec 5) (v : Byte) : Instr :=
  match i with
  | 0x00#5 => .apuPulse1Control v
  | 0x01#5 => .apuPulse1Sweep v
  | 0x02#5 => .apuPulse1TimerLow v
  | 0x03#5 => .apuPulse1Length v
  | 0x04#5 => .apuPulse2Control v
  | 0x05#5 => .apuPulse2Sweep v
  | 0x06#5 => .apuPulse2TimerLow v
  | 0x07#5 => .apuPulse2Length v
  | 0x08#5 => .apuTriangleControl v
  | 0x09#5 => .apuUnlisted .r09 v
  | 0x0A#5 => .apuTriangleTimerLow v
  | 0x0B#5 => .apuTriangleLength v
  | 0x0C#5 => .apuNoiseControl v
  | 0x0D#5 => .apuUnlisted .r0D v
  | 0x0E#5 => .apuNoiseMode v
  | 0x0F#5 => .apuNoiseLength v
  | 0x10#5 => .apuDmcControl v
  | 0x11#5 => .apuDmcDelta v
  | 0x12#5 => .apuDmcAddress v
  | 0x13#5 => .apuDmcLength v
  | 0x14#5 => .apuUnlisted .r14 v
  | 0x15#5 => .apuEnables v
  | 0x16#5 => .apuUnlisted .r16 v
  | 0x17#5 => .apuFrameCounter v
  | i => .apuUnlisted (.high (i.setWidth 3)) v

/-- The AY register command that a write of `v` to register `reg` is; none above 15 (rules R145, R152). -/
def decodeAy (reg : Nat) (v : Word) : Option Instr :=
  match reg with
  | 0 => some (.ayToneLow .A v)
  | 1 => some (.ayToneHigh .A v)
  | 2 => some (.ayToneLow .B v)
  | 3 => some (.ayToneHigh .B v)
  | 4 => some (.ayToneLow .C v)
  | 5 => some (.ayToneHigh .C v)
  | 6 => some (.ayNoisePeriod v)
  | 7 => some (.ayMixer v)
  | 8 => some (.ayAmplitude .A v)
  | 9 => some (.ayAmplitude .B v)
  | 10 => some (.ayAmplitude .C v)
  | 11 => some (.ayEnvPeriodLow v)
  | 12 => some (.ayEnvPeriodHigh v)
  | 13 => some (.ayEnvShape v)
  | 14 => some (.ayPort .reg14 v)
  | 15 => some (.ayPort .reg15 v)
  | _ => none

/-- The register command that a bus write or an AY write is, if it is one: an address of the APU window
0x4000 to 0x401F, an address of the bank range 0x5000 to 0x5FFF, or an AY register number up to 15. -/
def decodeCommand (c : Command) : Option Instr :=
  match c with
  | .bus addr v =>
    if 0x4000 ≤ addr.toNat ∧ addr.toNat ≤ 0x401F then some (decodeApu (addr.setWidth 5) v)
    else if 0x5000 ≤ addr.toNat ∧ addr.toNat ≤ 0x5FFF then some (.bankSelect (addr.setWidth 12) v)
    else none
  | .ay reg v => decodeAy reg v

/-- The three bytes at the bottom of the number `w` cut to its low `nbits` bits, the first byte lowest. -/
def wordBytes (nbits w : Nat) : List Byte :=
  let w := w % 2 ^ nbits
  [BitVec.ofNat 8 w, BitVec.ofNat 8 (w / 256), BitVec.ofNat 8 (w / 65536)]

/-- The instruction the decoder reads from the bytes of the number `w`, its first byte in bits 7 to 0. -/
def decodeTableWord (nbits w : Nat) : Option Instr :=
  match decode (wordBytes nbits w) with
  | .ok (i, _) => some i
  | .error _ => none

/-! ## The encoder -/

/-- One row of the table of rule R118: the opcode byte of a mnemonic in each of its modes. -/
structure OpRow where
  imm : Option Byte := none
  acc : Option Byte := none
  zp : Option Byte := none
  zpx : Option Byte := none
  zpy : Option Byte := none
  abs : Option Byte := none
  absx : Option Byte := none
  absy : Option Byte := none
  indx : Option Byte := none
  indy : Option Byte := none

def opsOra : OpRow := { imm := some 0x09, zp := some 0x05, zpx := some 0x15, abs := some 0x0D, absx := some 0x1D, absy := some 0x19, indx := some 0x01, indy := some 0x11 }
def opsAsl : OpRow := { acc := some 0x0A, zp := some 0x06, zpx := some 0x16, abs := some 0x0E, absx := some 0x1E }
def opsAnd : OpRow := { imm := some 0x29, zp := some 0x25, zpx := some 0x35, abs := some 0x2D, absx := some 0x3D, absy := some 0x39, indx := some 0x21, indy := some 0x31 }
def opsBit : OpRow := { zp := some 0x24, abs := some 0x2C }
def opsRol : OpRow := { acc := some 0x2A, zp := some 0x26, zpx := some 0x36, abs := some 0x2E, absx := some 0x3E }
def opsEor : OpRow := { imm := some 0x49, zp := some 0x45, zpx := some 0x55, abs := some 0x4D, absx := some 0x5D, absy := some 0x59, indx := some 0x41, indy := some 0x51 }
def opsLsr : OpRow := { acc := some 0x4A, zp := some 0x46, zpx := some 0x56, abs := some 0x4E, absx := some 0x5E }
def opsAdc : OpRow := { imm := some 0x69, zp := some 0x65, zpx := some 0x75, abs := some 0x6D, absx := some 0x7D, absy := some 0x79, indx := some 0x61, indy := some 0x71 }
def opsRor : OpRow := { acc := some 0x6A, zp := some 0x66, zpx := some 0x76, abs := some 0x6E, absx := some 0x7E }
def opsSta : OpRow := { zp := some 0x85, zpx := some 0x95, abs := some 0x8D, absx := some 0x9D, absy := some 0x99, indx := some 0x81, indy := some 0x91 }
def opsSty : OpRow := { zp := some 0x84, zpx := some 0x94, abs := some 0x8C }
def opsStx : OpRow := { zp := some 0x86, zpy := some 0x96, abs := some 0x8E }
def opsLdy : OpRow := { imm := some 0xA0, zp := some 0xA4, zpx := some 0xB4, abs := some 0xAC, absx := some 0xBC }
def opsLda : OpRow := { imm := some 0xA9, zp := some 0xA5, zpx := some 0xB5, abs := some 0xAD, absx := some 0xBD, absy := some 0xB9, indx := some 0xA1, indy := some 0xB1 }
def opsLdx : OpRow := { imm := some 0xA2, zp := some 0xA6, zpy := some 0xB6, abs := some 0xAE, absy := some 0xBE }
def opsCpy : OpRow := { imm := some 0xC0, zp := some 0xC4, abs := some 0xCC }
def opsCmp : OpRow := { imm := some 0xC9, zp := some 0xC5, zpx := some 0xD5, abs := some 0xCD, absx := some 0xDD, absy := some 0xD9, indx := some 0xC1, indy := some 0xD1 }
def opsDec : OpRow := { zp := some 0xC6, zpx := some 0xD6, abs := some 0xCE, absx := some 0xDE }
def opsCpx : OpRow := { imm := some 0xE0, zp := some 0xE4, abs := some 0xEC }
def opsSbc : OpRow := { imm := some 0xE9, zp := some 0xE5, zpx := some 0xF5, abs := some 0xED, absx := some 0xFD, absy := some 0xF9, indx := some 0xE1, indy := some 0xF1 }
def opsInc : OpRow := { zp := some 0xE6, zpx := some 0xF6, abs := some 0xEE, absx := some 0xFE }

/-- A two-byte instruction: opcode, then `d8` (rule R110, format F2). -/
def encodeByte (op : Option Byte) (d : Byte) : List Byte :=
  match op with
  | some op => [op, d]
  | none => []

/-- A three-byte instruction: opcode, then the 16-bit operand, low byte first (rule R110, format F3). -/
def encodeWord (op : Option Byte) (w : Word) : List Byte :=
  match op with
  | some op => [op, lowByte w, highByte w]
  | none => []

/-- The bytes of a mnemonic with a memory operand; none when it has no such mode. -/
def OpRow.encodeMem (r : OpRow) : MemMode → List Byte
  | .zp d => encodeByte r.zp d
  | .zpx d => encodeByte r.zpx d
  | .zpy d => encodeByte r.zpy d
  | .abs w => encodeWord r.abs w
  | .absx w => encodeWord r.absx w
  | .absy w => encodeWord r.absy w
  | .indx d => encodeByte r.indx d
  | .indy d => encodeByte r.indy d

/-- The bytes of a mnemonic with a read operand. -/
def OpRow.encodeSrc (r : OpRow) : Src → List Byte
  | .imm d => encodeByte r.imm d
  | .mem m => r.encodeMem m

/-- The bytes of a mnemonic with a shift operand. -/
def OpRow.encodeTgt (r : OpRow) : Tgt → List Byte
  | .acc => r.acc.toList
  | .mem m => r.encodeMem m

/-- The bytes of a well-formed CPU instruction (rules R110 and R118). A register command has no bytes in the CPU's
instruction stream, and an instruction the table has no row for has none either: the answer is then empty. -/
def encode : Instr → List Byte
  | .brk => [0x00]
  | .ora m => opsOra.encodeSrc m
  | .asl t => opsAsl.encodeTgt t
  | .bpl d => [0x10, d]
  | .clc => [0x18]
  | .jsr w => [0x20, lowByte w, highByte w]
  | .and m => opsAnd.encodeSrc m
  | .bit m => opsBit.encodeMem m
  | .rol t => opsRol.encodeTgt t
  | .bmi d => [0x30, d]
  | .sec => [0x38]
  | .eor m => opsEor.encodeSrc m
  | .lsr t => opsLsr.encodeTgt t
  | .pha => [0x48]
  | .jmp (.abs w) => [0x4C, lowByte w, highByte w]
  | .jmp (.ind w) => [0x6C, lowByte w, highByte w]
  | .rts => [0x60]
  | .adc m => opsAdc.encodeSrc m
  | .ror t => opsRor.encodeTgt t
  | .pla => [0x68]
  | .sta m => opsSta.encodeMem m
  | .sty m => opsSty.encodeMem m
  | .stx m => opsStx.encodeMem m
  | .dey => [0x88]
  | .txa => [0x8A]
  | .bcc d => [0x90, d]
  | .tya => [0x98]
  | .ldy m => opsLdy.encodeSrc m
  | .lda m => opsLda.encodeSrc m
  | .ldx m => opsLdx.encodeSrc m
  | .tay => [0xA8]
  | .tax => [0xAA]
  | .bcs d => [0xB0, d]
  | .cpy m => opsCpy.encodeSrc m
  | .cmp m => opsCmp.encodeSrc m
  | .dec m => opsDec.encodeMem m
  | .iny => [0xC8]
  | .dex => [0xCA]
  | .bne d => [0xD0, d]
  | .cpx m => opsCpx.encodeSrc m
  | .sbc m => opsSbc.encodeSrc m
  | .inc m => opsInc.encodeMem m
  | .inx => [0xE8]
  | .nop => [0xEA]
  | .beq d => [0xF0, d]
  | .apuPulse1Control _ | .apuPulse1Sweep _ | .apuPulse1TimerLow _ | .apuPulse1Length _ => []
  | .apuPulse2Control _ | .apuPulse2Sweep _ | .apuPulse2TimerLow _ | .apuPulse2Length _ => []
  | .apuTriangleControl _ | .apuTriangleTimerLow _ | .apuTriangleLength _ => []
  | .apuNoiseControl _ | .apuNoiseMode _ | .apuNoiseLength _ => []
  | .apuDmcControl _ | .apuDmcDelta _ | .apuDmcAddress _ | .apuDmcLength _ => []
  | .apuEnables _ | .apuFrameCounter _ | .apuUnlisted _ _ | .bankSelect _ _ => []
  | .ayToneLow _ _ | .ayToneHigh _ _ | .ayNoisePeriod _ | .ayMixer _ | .ayAmplitude _ _ => []
  | .ayEnvPeriodLow _ | .ayEnvPeriodHigh _ | .ayEnvShape _ | .ayPort _ _ => []

/-- The register number of an unlisted APU register (rule R215). -/
def UnlistedReg.index : UnlistedReg → BitVec 5
  | .r09 => 0x09
  | .r0D => 0x0D
  | .r14 => 0x14
  | .r16 => 0x16
  | .high k => 0x18 ||| k.setWidth 5

/-- 0, 1, 2 for the AY's channels A, B, C. -/
def AyChannel.index : AyChannel → Nat
  | .A => 0
  | .B => 1
  | .C => 2

/-- The register command of an instruction that is one (rules R134, R142, R145); none for a CPU instruction. -/
def encodeCommand : Instr → Option Command
  | .apuPulse1Control v => some (.bus 0x4000 v)
  | .apuPulse1Sweep v => some (.bus 0x4001 v)
  | .apuPulse1TimerLow v => some (.bus 0x4002 v)
  | .apuPulse1Length v => some (.bus 0x4003 v)
  | .apuPulse2Control v => some (.bus 0x4004 v)
  | .apuPulse2Sweep v => some (.bus 0x4005 v)
  | .apuPulse2TimerLow v => some (.bus 0x4006 v)
  | .apuPulse2Length v => some (.bus 0x4007 v)
  | .apuTriangleControl v => some (.bus 0x4008 v)
  | .apuTriangleTimerLow v => some (.bus 0x400A v)
  | .apuTriangleLength v => some (.bus 0x400B v)
  | .apuNoiseControl v => some (.bus 0x400C v)
  | .apuNoiseMode v => some (.bus 0x400E v)
  | .apuNoiseLength v => some (.bus 0x400F v)
  | .apuDmcControl v => some (.bus 0x4010 v)
  | .apuDmcDelta v => some (.bus 0x4011 v)
  | .apuDmcAddress v => some (.bus 0x4012 v)
  | .apuDmcLength v => some (.bus 0x4013 v)
  | .apuEnables v => some (.bus 0x4015 v)
  | .apuFrameCounter v => some (.bus 0x4017 v)
  | .apuUnlisted r v => some (.bus (0x4000 ||| r.index.setWidth 16) v)
  | .bankSelect off v => some (.bus (0x5000 ||| off.setWidth 16) v)
  | .ayToneLow c v => some (.ay (2 * c.index) v)
  | .ayToneHigh c v => some (.ay (2 * c.index + 1) v)
  | .ayNoisePeriod v => some (.ay 6 v)
  | .ayMixer v => some (.ay 7 v)
  | .ayAmplitude c v => some (.ay (8 + c.index) v)
  | .ayEnvPeriodLow v => some (.ay 11 v)
  | .ayEnvPeriodHigh v => some (.ay 12 v)
  | .ayEnvShape v => some (.ay 13 v)
  | .ayPort .reg14 v => some (.ay 14 v)
  | .ayPort .reg15 v => some (.ay 15 v)
  | .ora _ | .and _ | .eor _ | .adc _ | .sbc _ | .cmp _ | .lda _ => none
  | .asl _ | .lsr _ | .rol _ | .ror _ | .inc _ | .dec _ | .bit _ => none
  | .cpx _ | .cpy _ | .ldx _ | .ldy _ | .sta _ | .stx _ | .sty _ => none
  | .brk | .rts | .pha | .pla | .clc | .sec | .nop => none
  | .tax | .tay | .txa | .tya | .inx | .iny | .dex | .dey => none
  | .jsr _ | .jmp _ => none
  | .bcc _ | .bcs _ | .beq _ | .bne _ | .bmi _ | .bpl _ => none

end Sys2Proof
end

