-- ==== Sys2Proof/Config.lean ====
section
/-! DEFINITION. What the spec leaves OPEN for the whole of a run, and the model's one free value. None of these
constants has a body: no proof can use a value of one, so every claim holds for every choice of them
(spec/00_scope.md rule R8, spec/93_implementation_defined.md U4 and U5). -/

namespace Sys2Proof.Config

/-- `PULSE_LEVEL[16]`: the amplitude of each 4-bit level of a pulse channel at volume 100. OPEN (rule R259). -/
opaque pulseLevel : BitVec 4 → BitVec 16

/-- `TRI_LEVEL[16]`: the amplitude of each 4-bit level of the triangle at volume 100. OPEN (rule R259). -/
opaque triangleLevel : BitVec 4 → BitVec 16

/-- `NOISE_LEVEL[16]`: the amplitude of each 4-bit level of the noise channel at volume 100. OPEN (rule R259). -/
opaque noiseLevel : BitVec 4 → BitVec 16

/-- `DMC_LEVEL[16]`: the DMC's table, of which only entry 15 is used (rule R254). OPEN (rule R259). -/
opaque dmcLevel : BitVec 4 → BitVec 16

/-- `AY_LEVEL[32]`: the AY's amplitude of each of the 32 levels at volume 100. OPEN (rule R177). -/
opaque ayLevel : BitVec 5 → BitVec 16

/-- `isAY8930`: whether a chip type is the AY8930 variant, a Boolean function of `ay.chipType`. OPEN (rule R151). -/
opaque isAY8930 : Nat → Bool

/-- FREE VALUE: the base amplitude, before the volume scales it, of an envelope-driven AY channel at a moment when `ay.envPos` lies beyond
`ay.envStepMask`. Rule R175 bounds the level by the mask and states none there; the case arises when `setType`
shortens the envelope while it is beyond the new end. Applied to `ay.freeCount`, a counter of the state.
DESIGN CHOICE, notes/assumptions/6.md. -/
opaque freeAyAmplitude : Nat → BitVec 16

end Sys2Proof.Config
end

