-- ==== Sys2Proof/Machine/State.lean ====
section
/-! DEFINITION. The whole state of the block as plain data (spec/10_state.md): the CPU, the bus and cartridge, the
APU, the AY, and the host's coming operations; the reasons a step stops; and the state right after reset. -/

namespace Sys2Proof.Machine

/-! ## The CPU (rules R20 to R26) -/

/-- The 6502's registers (rules R20 to R23) and the stop marker of `call` (rule R26). The scratch fields `absAddr`,
`relAddr` and `implied` of rule R25 are local to each meaning. -/
structure Cpu where
  a : Byte
  x : Byte
  y : Byte
  sp : Byte
  /-- the flags C, Z, I, D, B, U, V, N in bits 0 to 7 (rule R23) -/
  p : Byte
  pc : Word
  /-- the value of `sp` that ends a `call` (rule R26) -/
  stopSp : Byte
  deriving DecidableEq, Repr

/-- The OPEN values of rule R27, one value each for every run: D24's suggestion. DESIGN CHOICE, unsafe,
notes/assumptions/1.md. -/
def Cpu.reset : Cpu :=
  { a := 0x00, x := 0x00, y := 0x00, sp := 0xFF, p := 0x00, pc := 0x0000, stopSp := 0xFF }

/-! ## The bus and cartridge (rules R55 to R59) -/

/-- The stored bytes of RAM (cells 0x0000 to 0x07FF, rule R55) and battery RAM (cells 0x6000 to 0x7FFF, rule R56):
addresses strictly rising, and no entry equal to what an unlisted cell holds, which is 0. -/
abbrev Memory := List Host.Cell

/-- An immutable data block: a base address and its bytes (rule R58). -/
structure Block where
  base : Word
  bytes : List Byte
  deriving DecidableEq, Repr

/-- What an address of the bus is (the rows of rule R71). -/
inductive Region where
  /-- RAM cell `key` (rule R72) -/
  | ram (key : Nat)
  /-- nothing there: 0x2000 to 0x3FFF and 0x4020 to 0x4FFF (rules R73, R75) -/
  | hole
  /-- register `i` of the APU window (rule R74) -/
  | apu (i : BitVec 5)
  /-- bank register `i` (rule R76) -/
  | bank (i : BitVec 3)
  /-- battery RAM cell `key` (rule R77) -/
  | bram (key : Nat)
  /-- the banked ROM window 0x8000 to 0xFFF9 (rule R78) -/
  | rom
  /-- 0xFFFA to 0xFFFF, always at their native address (rule R79) -/
  | vectors
  deriving DecidableEq, Repr

/-- The memory and the cartridge (rules R55 to R58). -/
structure Bus where
  mem : Memory
  bank : Vector Byte 8
  bankingEnabled : Bool
  blocks : List Block
  /-- `mapper031BaseAddress` (rule R58) -/
  mapperBase : Word
  deriving DecidableEq, Repr

/-- The bus at construction (rule R59). `mapperBase` is never read while there is no block (rule R58):
DESIGN CHOICE, notes/assumptions/15.md. -/
def Bus.initial : Bus :=
  { mem := [], bank := Vector.replicate 8 0, bankingEnabled := false, blocks := [], mapperBase := 0 }

/-! ## The APU (rules R30 to R38) -/

/-- The five channels in the order of `ch[0..4]` (rule R31). -/
inductive ChannelId where
  | pulse1
  | pulse2
  | triangle
  | noise
  | dmc
  deriving DecidableEq, Repr

/-- The channel record (rule R31), one type for all five channels. `period` and `envVolume` are functions of the
register file (rules R31 and R32) and are computed where they are used. -/
structure Channel where
  /-- timer accumulator, in the fixed-point unit of rule R13 -/
  counter : Nat
  /-- duty step, ramp step, or for the DMC the bits left in its buffer -/
  sequencer : Nat
  lenCounter : Nat
  linearCounter : Nat
  linearReloadFlag : Bool
  decayCounter : BitVec 4
  divider : BitVec 4
  /-- the envelope's start flag -/
  updateEnvelope : Bool
  /-- the level played last -/
  volume : BitVec 4
  /-- the channel's amplitude of the current sample -/
  output : Nat
  /-- the sweep divider, on which nothing observable depends (rule R33) -/
  sweepCounter : Nat
  deriving DecidableEq, Repr

/-- A channel record after reset (rule R38). -/
def Channel.reset : Channel :=
  { counter := 0, sequencer := 0, lenCounter := 0, linearCounter := 0, linearReloadFlag := false,
    decayCounter := 0, divider := 0, updateEnvelope := false, volume := 0, output := 0, sweepCounter := 0 }

/-- The APU (rules R30, R31, R34, R35, R36). -/
structure Apu where
  regs : Vector Byte 32
  pulse1 : Channel
  pulse2 : Channel
  triangle : Channel
  noise : Channel
  dmc : Channel
  dmcActive : Bool
  dmcAddr : Word
  dmcLen : Nat
  dmcBuffer : Byte
  /-- never delivered and read by nothing (rule R387) -/
  dmcIrqFlag : Bool
  dmcDelta : Nat
  /-- `apuFrames`, the phase of the frame sequencer (rule R34) -/
  frames : Nat
  quarter : Bool
  half : Bool
  full : Bool
  lastFrameCounter : Nat
  noiseLfsr : BitVec 15
  /-- `APU_VOLUME_PERCENT` (rule R36) -/
  volumePercent : Nat
  deriving DecidableEq, Repr

/-- The APU after `reset()` or `power()` (rule R38); the volume is the one thing kept. -/
def Apu.resetWith (volumePercent : Nat) : Apu :=
  { regs := Vector.replicate 32 0,
    pulse1 := Channel.reset, pulse2 := Channel.reset, triangle := Channel.reset, noise := Channel.reset,
    dmc := Channel.reset,
    dmcActive := false, dmcAddr := 0, dmcLen := 0, dmcBuffer := 0, dmcIrqFlag := false, dmcDelta := 0,
    frames := 0, quarter := false, half := false, full := false, lastFrameCounter := 0, noiseLfsr := 1,
    volumePercent := volumePercent }

/-! ## The AY (rules R45 to R47) -/

/-- A tone channel's own state: its accumulator and its square-wave phase (rule R46). -/
structure AyTone where
  counter : Nat
  phase : Bool
  deriving DecidableEq, Repr

/-- The AY (rules R45 and R46). Periods, mixer, amplitudes, shape bits and the envelope mask are functions of the
registers, the sample rate and the chip type, and are computed where they are used. -/
structure Ay where
  regs : Vector Word 16
  toneA : AyTone
  toneB : AyTone
  toneC : AyTone
  noiseCounter : Nat
  noiseLfsr : BitVec 17
  envCounter : Nat
  envPos : BitVec 5
  envHolding : Bool
  envRamp : Bool
  /-- an OPEN enumeration (rule R151), numbered -/
  chipType : Nat
  /-- stored, without effect (rule R151) -/
  flags : Byte
  /-- `AY_CLOCK_HZ` (rule R161) -/
  clockHz : Nat
  /-- `AY_SAMPLE_RATE_HZ` (rule R161) -/
  sampleRateHz : Nat
  /-- `AY_VOLUME_PERCENT` (rule R162) -/
  volumePercent : Nat
  /-- the model's own: the index of the next free value (notes/assumptions/6.md) -/
  freeCount : Nat
  deriving DecidableEq, Repr

/-- The AY at construction: default configuration, nothing written (rules R47, R61). The chip type, the flag byte
and the clock before the host sets them: DESIGN CHOICE, notes/assumptions/5.md. -/
def Ay.initial : Ay :=
  { regs := Vector.replicate 16 0,
    toneA := { counter := 0, phase := false }, toneB := { counter := 0, phase := false },
    toneC := { counter := 0, phase := false },
    noiseCounter := 0, noiseLfsr := 1, envCounter := 0, envPos := 0, envHolding := false, envRamp := false,
    chipType := 0, flags := 0, clockHz := 0, sampleRateHz := 44100, volumePercent := 100, freeCount := 0 }

/-! ## The host (spec/46_host_interface.md) -/

/-- The chip a wait samples (rule R359). -/
inductive Chip where
  | apu
  | ay
  deriving DecidableEq, Repr

/-- What an NSF file's header hands to the block (rules R361 and R362). -/
structure NsfHeader where
  initAddress : Word
  playAddress : Word
  /-- the track count -/
  songIndex : Nat
  bankSwitch : Vector Byte 8
  ntscPlaySpeed : Nat
  deriving DecidableEq, Repr

/-- What follows when a `call` or `resume` returns. -/
inductive RunPurpose where
  /-- the host only sees the status -/
  | plain
  /-- INIT: boot succeeds iff the status is 1 (rule R361) -/
  | boot
  /-- PLAY: on status 1 take `wait` samples (rule R362) -/
  | play (wait : Nat)
  deriving DecidableEq, Repr

/-- The operations of the host on the block (rule R350), the sequences of them that the spec fixes (rules R361,
R362), and the VGM commands that touch the block (rule R146). -/
inductive HostOp where
  /-- `reset()` of the whole block (rule R351) -/
  | reset
  /-- `power()` of the whole block (rule R351) -/
  | power
  /-- `reset()` or `power()` of one part alone (rules R351, R410) -/
  | apuReset
  | apuPower
  | ayReset
  | cpuReset
  | cpuPower
  | busReset
  | busPower
  /-- `MemWrite(addr, 1, v)` (rule R355) -/
  | busWrite (addr : Word) (v : Byte)
  /-- `MemRead(addr, 1)` (rule R355) -/
  | busRead (addr : Word)
  /-- `ApuWrite(addr, v)` called directly (rule R190) -/
  | apuWrite (addr : Word) (v : Byte)
  /-- `ApuRead(addr)` (rule R216) -/
  | apuRead (addr : Word)
  /-- VGM `B4 aa dd` (rule R354) -/
  | vgmB4 (aa dd : Byte)
  /-- VGM `A0 aa dd` (rule R357) -/
  | vgmA0 (aa dd : Byte)
  /-- assignment of a CPU register between instructions (rule R356) -/
  | setA (v : Byte)
  | setX (v : Byte)
  | setY (v : Byte)
  | setSp (v : Byte)
  | setP (v : Byte)
  | setPc (v : Word)
  /-- `call(addr, n)`; `none` is the unlimited budget (rule R343); `purpose` is what the host does with the status -/
  | call (addr : Word) (budget : Option Nat) (purpose : RunPurpose)
  /-- `resume(n)` (rule R344) -/
  | resume (budget : Option Nat)
  /-- `step()` (rule R340) -/
  | cpuStep
  /-- `setBlock(base, bytes)` (rule R353) -/
  | setBlock (base : Word) (bytes : List Byte)
  /-- `ApuSample()` (rule R230) -/
  | apuSample
  /-- `ApuSetVolume(percent)` (rule R217) -/
  | apuSetVolume (percent : Nat)
  /-- `AyWrite(reg, v)` (rule R152) -/
  | ayWrite (reg : Nat) (v : Word)
  /-- `AyRead(reg)` (rule R160) -/
  | ayRead (reg : Nat)
  /-- `AySample()` (rule R170) -/
  | aySample
  /-- `setType(chipType, flags)` (rule R151) -/
  | aySetType (chipType : Nat) (flags : Byte)
  /-- `setFrequency(hz)` (rule R161) -/
  | aySetFrequency (hz : Nat)
  /-- `setSampleFrequency(hz)` (rule R161) -/
  | aySetSampleFrequency (hz : Nat)
  /-- `setVolume(percent)` (rule R162) -/
  | aySetVolume (percent : Nat)
  /-- `n` calls of `sample()` of one chip (rule R358) -/
  | wait (chip : Chip) (n : Nat)
  /-- `setTrack(n)`, the NSF boot (rule R361) -/
  | nsfBoot (h : NsfHeader) (track : Nat)
  /-- `decodeBlock()`, one NSF PLAY tick (rule R362) -/
  | nsfPlay (h : NsfHeader)
  /-- the commands of a VGM stream that touch the block, until command `66` (rules R146, R363); `chip` is the one its
  waits sample, `base` the base address of every data block it registers (notes/assumptions/27.md) -/
  | vgm (chip : Chip) (base : Word) (bytes : List Byte)
  /-- the host ends the run (rule R366) -/
  | stop
  deriving DecidableEq, Repr

/-- A `call` or `resume` in flight: the budget left, `none` for unlimited (rules R343, R344). -/
structure Run where
  budget : Option Nat
  purpose : RunPurpose
  deriving DecidableEq, Repr

/-- What the host can see (rule R350). -/
inductive HostResult where
  /-- the word of one `ApuSample()` -/
  | apuSample (w : BitVec 32)
  /-- the word of one `AySample()` -/
  | aySample (w : BitVec 32)
  /-- the integer status of `call` and `resume`: 1, 0 or -1 (rule R345) -/
  | status (n : Int)
  /-- `step()` returned `Ok` -/
  | stepOk
  /-- `step()` returned `CpuError`, with the `pc` of the undefined byte (rule R380) -/
  | stepError (pc : Word)
  /-- the Boolean of a bus write (rule R85) -/
  | wrote (ok : Bool)
  /-- the byte of a bus read, or of `ApuRead` -/
  | byte (v : Byte)
  /-- the value of `AyRead` -/
  | ayValue (v : Word)
  /-- whether the NSF boot succeeded (rule R361) -/
  | booted (ok : Bool)
  deriving DecidableEq, Repr

/-- The host as the model holds it (the model's own fields, notes/assumptions/3.md and 13.md). -/
structure HostState where
  /-- the operations it performs next, the first one first -/
  queue : List HostOp
  /-- the `call` or `resume` in flight -/
  run : Option Run
  /-- the host has ended the run (rule R366) -/
  stopped : Bool
  /-- what it has seen, newest first (rule R366) -/
  results : List HostResult
  deriving DecidableEq, Repr

/-- A host that has asked for nothing yet. -/
def HostState.initial : HostState :=
  { queue := [], run := none, stopped := false, results := [] }

/-! ## The whole block -/

/-- The state of the block and of the host that drives it. -/
structure State where
  cpu : Cpu
  bus : Bus
  apu : Apu
  ay : Ay
  host : HostState
  deriving DecidableEq, Repr

/-- The freshly constructed and reset block (rules R27, R38, R47, R59, R411). -/
def State.reset : State :=
  { cpu := Cpu.reset, bus := Bus.initial, apu := Apu.resetWith 100, ay := Ay.initial, host := HostState.initial }

/-- Why a step stops the machine. -/
inductive Fault where
  /-- `CpuError` (rule R380): raised by the step of a host that single-steps the CPU, when the byte at `pc` is one of
  the 117 undefined opcodes. Safe: it is the spec's own fault, and no state changes. -/
  | cpuError (pc : Word)
  deriving DecidableEq, Repr

/-- Why a step has no meaning. -/
inductive Refusal where
  /-- raised by `exec` for an instruction that has no meaning in the model. Safe: the machine stops. -/
  | notModelled (mnemonic : String)
  /-- raised by the host operation `apuWrite` for an address outside 0x4000 to 0x401F, which the spec says to refuse
  (rule R190, U6). Safe: the machine stops. -/
  | apuWriteOutsideWindow (addr : Word)
  /-- raised by `AySample()` while the AY's sample rate is 0, a rate the spec says to refuse (U19): the loops of rules
  R172 to R174 would not end. Safe: the machine stops. -/
  | aySampleRateZero
  /-- raised by the host operation `vgm` for a command the spec leaves to the parser outside the block (rules R6, R146).
  Safe: the machine stops. -/
  | vgmCommandOutOfScope (op : Byte)
  /-- raised by the host operation `vgm` for a stream that ends inside a command. Safe: the machine stops. -/
  | vgmTruncated (op : Byte)
  /-- raised by the host operation `vgm` for a byte 67 whose next byte, here, is not the 66 of the one form rules R146 and
  R353 give (notes/assumptions/26.md). Safe: the machine stops. -/
  | vgmBlockMarker (found : Byte)
  deriving DecidableEq, Repr

/-- What a meaning and a step answer. -/
abbrev Result := Host.Outcome State Fault Refusal

end Sys2Proof.Machine
end

