-- ==== Sys2Proof/Machine/Tables.lean ====
section
/-! DEFINITION. The parameters of spec/00_scope.md rule R8 that the spec gives a value for, and the fixed tables of
the APU. The period tables, the duty patterns and part of the length table are the spec's defaults from general
knowledge (spec/93_implementation_defined.md U18; notes/assumptions/21.md). -/

namespace Sys2Proof.Machine

/-- `CPU_CLOCK_HZ`, which is also `APU_TICK`, the time one sample grants (rules R8, R13). -/
def cpuClockHz : Nat := 1789773

/-- `SAMPLE_RATE_HZ` (rule R8): units of the APU's fixed-point time in one CPU cycle (rule R13). -/
def sampleRateHz : Nat := 44100

/-- `FRAME_PERIOD_CYCLES` (rule R231). -/
def framePeriodCycles : Nat := 7457

/-- `AY_TICK_DIV` (rules R8, R171). -/
def ayTickDiv : Nat := 16

/-- `MAX_BLOCKS` (rule R8). -/
def maxBlocks : Nat := 4

/-- `PLAY_BUDGET` (rule R362). -/
def playBudget : Nat := 20000

/-- `LENGTH_TABLE[0..31]` (rule R191). -/
def lengthTable (i : BitVec 5) : Nat :=
  [10, 254, 20, 2, 40, 4, 80, 6, 160, 8, 60, 10, 14, 12, 26, 14,
   12, 16, 24, 18, 48, 20, 96, 22, 192, 24, 72, 26, 16, 28, 32, 30].getD i.toNat 0

/-- `NOISE_PERIOD[0..15]`, in CPU cycles (rule R247). -/
def noisePeriodTable (i : BitVec 4) : Nat :=
  [4, 8, 16, 32, 64, 96, 128, 160, 202, 254, 380, 508, 762, 1016, 2034, 4068].getD i.toNat 4

/-- `DMC_RATE[0..15]`, in CPU cycles per bit (rule R251). -/
def dmcRateTable (i : BitVec 4) : Nat :=
  [428, 380, 340, 320, 286, 254, 226, 214, 190, 160, 142, 128, 106, 84, 72, 54].getD i.toNat 428

/-- `DUTY[d][i]` (rule R236): the pattern of duty `d`, step 0 first. -/
def dutyPattern (d : BitVec 2) : List Bool :=
  match d with
  | 0#2 => [false, true, false, false, false, false, false, false]
  | 1#2 => [false, true, true, false, false, false, false, false]
  | 2#2 => [false, true, true, true, true, false, false, false]
  | _ => [true, false, false, true, true, true, true, true]

/-- Whether duty `d` is 1 at sequencer step `i` (rule R236). -/
def dutyBit (d : BitVec 2) (i : Nat) : Bool := (dutyPattern d).getD i false

/-- `RAMP[i]`, the triangle's 32 levels 0 to 15 then 15 to 0 (rule R245). -/
def rampLevel (i : Nat) : Nat := if i ≤ 15 then i else 31 - i

/-- The amplitude of a base level at a volume: `min(0xFFFF, floor(level * percent / 100))` (rules R36, R46). -/
def scaledLevel (level : BitVec 16) (percent : Nat) : Nat := min 0xFFFF (level.toNat * percent / 100)

/-- `n` turns of a loop's body: the loops of the chips' timers (rules R242 to R250, R172 to R174) turn
`counter / period` times and leave `counter % period`, since no body touches the counter or the period. -/
def turns {α : Type} (body : α → α) : Nat → α → α
  | 0, x => x
  | n + 1, x => turns body n (body x)

end Sys2Proof.Machine
end

