-- ==== Sys2Proof/Machine/Apu.lean ====
section
/-! DEFINITION. The APU's register file and what each register write does (spec/41_apu_registers.md): one definition
per register, and the routing of a write in the window 0x4000 to 0x401F. -/

namespace Sys2Proof.Machine

/-- The channel record of `k` (rule R31). -/
def Apu.channel (a : Apu) : ChannelId → Channel
  | .pulse1 => a.pulse1
  | .pulse2 => a.pulse2
  | .triangle => a.triangle
  | .noise => a.noise
  | .dmc => a.dmc

/-- The APU with the channel record of `k` replaced. -/
def Apu.setChannel (a : Apu) (k : ChannelId) (c : Channel) : Apu :=
  match k with
  | .pulse1 => { a with pulse1 := c }
  | .pulse2 => { a with pulse2 := c }
  | .triangle => { a with triangle := c }
  | .noise => { a with noise := c }
  | .dmc => { a with dmc := c }

/-- `reg[i]` (rule R30). -/
def Apu.reg (a : Apu) (i : BitVec 5) : Byte := a.regs[i.toNat]'(i.isLt)

/-- `reg[i] <- v`, the store every register write begins with (rule R190). -/
def Apu.setReg (a : Apu) (i : BitVec 5) (v : Byte) : Apu := { a with regs := a.regs.set i.toNat v i.isLt }

/-- The bit of 0x4015 that enables channel `k` (rule R141). -/
def ChannelId.enableBit : ChannelId → Nat
  | .pulse1 => 0
  | .pulse2 => 1
  | .triangle => 2
  | .noise => 3
  | .dmc => 4

/-- The first register of channel `k`, which holds its control field (rules R135, R138, R139, R140). -/
def ChannelId.controlReg : ChannelId → BitVec 5
  | .pulse1 => 0x00
  | .pulse2 => 0x04
  | .triangle => 0x08
  | .noise => 0x0C
  | .dmc => 0x10

/-- `reg[0x15][k]`, the channel's enable (rule R141). -/
def Apu.enabled (a : Apu) (k : ChannelId) : Bool := (a.reg 0x15).getLsbD k.enableBit

/-- The 11-bit timer value whose low register is `lo` and whose high bits are in register `lo + 1` (rule R137). -/
def Apu.timerValue (a : Apu) (lo : BitVec 5) : Nat :=
  ((a.reg (lo + 1)).extractLsb' 0 3 ++ a.reg lo).toNat

/-- The timer reload of channel `k`, a function of the registers that is never zero (rule R32). -/
def Apu.period (a : Apu) : ChannelId → Nat
  | .pulse1 => 2 * (a.timerValue 0x02 + 1) * sampleRateHz
  | .pulse2 => 2 * (a.timerValue 0x06 + 1) * sampleRateHz
  | .triangle => (a.timerValue 0x0A + 1) * sampleRateHz
  | .noise => noisePeriodTable ((a.reg 0x0E).extractLsb' 0 4) * sampleRateHz
  | .dmc => dmcRateTable ((a.reg 0x10).extractLsb' 0 4) * sampleRateHz

/-- `LoadLength(k, v)` (rule R220): the length counter is loaded only while the channel is enabled. -/
def Apu.loadLength (a : Apu) (k : ChannelId) (v : Byte) : Apu :=
  if a.enabled k then a.setChannel k { a.channel k with lenCounter := lengthTable (v.extractLsb' 3 5) } else a

/-- Set the envelope start flag of channel `k` (rules R195, R199, R205). -/
def Apu.startEnvelope (a : Apu) (k : ChannelId) : Apu :=
  a.setChannel k { a.channel k with updateEnvelope := true }

/-- `DmcRestart()` (rule R221). -/
def Apu.dmcRestart (a : Apu) : Apu :=
  { a with
    dmcAddr := 0xC000 + (a.reg 0x12).setWidth 16 * 64
    dmcLen := (a.reg 0x13).toNat * 16 + 1
    dmcActive := true }

/-- What a write of a pulse's length register does (rule R195), `i` being its number. -/
def Apu.writePulseLength (k : ChannelId) (i : BitVec 5) (v : Byte) (a : Apu) : Apu :=
  let a := (a.setReg i v).loadLength k v
  a.setChannel k { a.channel k with updateEnvelope := true, sequencer := 0 }

/-- Write 0x4000 (rule R192). Duty, halt, const and volume are read from the register when used. -/
def Apu.writePulse1Control (v : Byte) (a : Apu) : Apu := a.setReg 0x00 v

/-- Write 0x4001 (rule R193): no effect beyond the store. -/
def Apu.writePulse1Sweep (v : Byte) (a : Apu) : Apu := a.setReg 0x01 v

/-- Write 0x4002 (rule R194): the period follows from the register. -/
def Apu.writePulse1TimerLow (v : Byte) (a : Apu) : Apu := a.setReg 0x02 v

/-- Write 0x4003 (rule R195). -/
def Apu.writePulse1Length (v : Byte) (a : Apu) : Apu := a.writePulseLength .pulse1 0x03 v

/-- Write 0x4004 (rule R196). -/
def Apu.writePulse2Control (v : Byte) (a : Apu) : Apu := a.setReg 0x04 v

/-- Write 0x4005 (rule R197): no effect beyond the store. -/
def Apu.writePulse2Sweep (v : Byte) (a : Apu) : Apu := a.setReg 0x05 v

/-- Write 0x4006 (rule R198). -/
def Apu.writePulse2TimerLow (v : Byte) (a : Apu) : Apu := a.setReg 0x06 v

/-- Write 0x4007 (rule R199). -/
def Apu.writePulse2Length (v : Byte) (a : Apu) : Apu := a.writePulseLength .pulse2 0x07 v

/-- Write 0x4008 (rule R200): the linear counter is not itself reloaded. -/
def Apu.writeTriangleControl (v : Byte) (a : Apu) : Apu := a.setReg 0x08 v

/-- Write 0x400A (rule R201). -/
def Apu.writeTriangleTimerLow (v : Byte) (a : Apu) : Apu := a.setReg 0x0A v

/-- Write 0x400B (rule R202): the ramp is not restarted. -/
def Apu.writeTriangleLength (v : Byte) (a : Apu) : Apu :=
  let a := (a.setReg 0x0B v).loadLength .triangle v
  a.setChannel .triangle { a.triangle with linearReloadFlag := true }

/-- Write 0x400C (rule R203). -/
def Apu.writeNoiseControl (v : Byte) (a : Apu) : Apu := a.setReg 0x0C v

/-- Write 0x400E (rule R204): a change of the mode bit resets the shift register to 1. -/
def Apu.writeNoiseMode (v : Byte) (a : Apu) : Apu :=
  let old := a.reg 0x0E
  let a := a.setReg 0x0E v
  if v.getLsbD 7 != old.getLsbD 7 then { a with noiseLfsr := 1 } else a

/-- Write 0x400F (rule R205). -/
def Apu.writeNoiseLength (v : Byte) (a : Apu) : Apu :=
  ((a.setReg 0x0F v).loadLength .noise v).startEnvelope .noise

/-- Write 0x4010 (rule R206): writing the interrupt enable 0 clears the flag. -/
def Apu.writeDmcControl (v : Byte) (a : Apu) : Apu :=
  let a := a.setReg 0x10 v
  if v.getLsbD 7 then a else { a with dmcIrqFlag := false }

/-- Write 0x4011 (rule R207). -/
def Apu.writeDmcDelta (v : Byte) (a : Apu) : Apu :=
  { a.setReg 0x11 v with dmcDelta := (v.extractLsb' 0 7).toNat }

/-- Write 0x4012 (rule R208): used when a sample starts or loops. -/
def Apu.writeDmcAddress (v : Byte) (a : Apu) : Apu := a.setReg 0x12 v

/-- Write 0x4013 (rule R209): used when a sample starts or loops. -/
def Apu.writeDmcLength (v : Byte) (a : Apu) : Apu := a.setReg 0x13 v

/-- Force the length counter of a channel whose bit in `v` is clear to 0 (rule R210). -/
def Apu.silenceIfClear (v : Byte) (k : ChannelId) (a : Apu) : Apu :=
  if v.getLsbD k.enableBit then a else a.setChannel k { a.channel k with lenCounter := 0 }

/-- The DMC part of a write to 0x4015 (rule R210). -/
def Apu.enableDmc (v : Byte) (a : Apu) : Apu :=
  if !v.getLsbD 4 then { a with dmcActive := false, dmcLen := 0 }
  else if a.dmcActive then a
  else a.dmcRestart

/-- Write 0x4015 (rule R210). -/
def Apu.writeEnables (v : Byte) (a : Apu) : Apu :=
  let a := a.setReg 0x15 v
  let a := a.silenceIfClear v .pulse1
  let a := a.silenceIfClear v .pulse2
  let a := a.silenceIfClear v .triangle
  let a := a.silenceIfClear v .noise
  let a := a.enableDmc v
  { a with dmcIrqFlag := false }

/-- Write 0x4017 (rule R211): the phase restarts; no clock is produced and the divider runs on. -/
def Apu.writeFrameCounter (v : Byte) (a : Apu) : Apu := { a.setReg 0x17 v with frames := 0 }

/-- Write of a register without fields (rule R215): stored, nothing else. -/
def Apu.writeUnlisted (r : UnlistedReg) (v : Byte) (a : Apu) : Apu := a.setReg r.index v

/-- `ApuWrite` (rule R190): the store and the side effect of register `i`. -/
def Apu.write (i : BitVec 5) (v : Byte) (a : Apu) : Apu :=
  match i with
  | 0x00#5 => a.writePulse1Control v
  | 0x01#5 => a.writePulse1Sweep v
  | 0x02#5 => a.writePulse1TimerLow v
  | 0x03#5 => a.writePulse1Length v
  | 0x04#5 => a.writePulse2Control v
  | 0x05#5 => a.writePulse2Sweep v
  | 0x06#5 => a.writePulse2TimerLow v
  | 0x07#5 => a.writePulse2Length v
  | 0x08#5 => a.writeTriangleControl v
  | 0x0A#5 => a.writeTriangleTimerLow v
  | 0x0B#5 => a.writeTriangleLength v
  | 0x0C#5 => a.writeNoiseControl v
  | 0x0E#5 => a.writeNoiseMode v
  | 0x0F#5 => a.writeNoiseLength v
  | 0x10#5 => a.writeDmcControl v
  | 0x11#5 => a.writeDmcDelta v
  | 0x12#5 => a.writeDmcAddress v
  | 0x13#5 => a.writeDmcLength v
  | 0x15#5 => a.writeEnables v
  | 0x17#5 => a.writeFrameCounter v
  | i => a.setReg i v

/-- `ApuRead(addr)` (rule R216): 0 for every address, no side effect. -/
def apuRead (_addr : Word) : Byte := 0

/-- `ApuReset()` and `ApuPower()` (rule R218): the state of rule R38, the volume kept. -/
def Apu.doReset (a : Apu) : Apu := Apu.resetWith a.volumePercent

/-- `ApuSetVolume(percent)` (rule R217): the level tables are computed from it when used. -/
def Apu.setVolume (percent : Nat) (a : Apu) : Apu := { a with volumePercent := percent }

end Sys2Proof.Machine
end

