-- ==== Sys2Proof/Machine/Flags.lean ====
section
/-! DEFINITION. The flags of `p` (spec/10_state.md rule R23) and every flag computation the spec gives
(spec/00_scope.md rule R11 `SetNZ`, spec/44_cpu_alu.md). -/

namespace Sys2Proof.Machine

/-- The eight flags, bit 0 to bit 7 (rule R23). -/
inductive Flag where
  | C
  | Z
  | I
  | D
  | B
  | U
  | V
  | N
  deriving DecidableEq, Repr

/-- The bit of `p` that holds a flag (rule R23). -/
def Flag.bit : Flag → Nat
  | .C => 0
  | .Z => 1
  | .I => 2
  | .D => 3
  | .B => 4
  | .U => 5
  | .V => 6
  | .N => 7

/-- The flag `f` of the flags byte `p`. -/
def getFlag (p : Byte) (f : Flag) : Bool := p.getLsbD f.bit

/-- The flags byte `p` with the flag `f` set to `b`. -/
def setFlag (p : Byte) (f : Flag) (b : Bool) : Byte :=
  if b then p ||| (1#8 <<< f.bit) else p &&& ~~~(1#8 <<< f.bit)

/-- `SetNZ(v)` (rule R11): Z says that `v` is 0, N is its bit 7. -/
def setNZ (v p : Byte) : Byte := setFlag (setFlag p .Z (v == 0)) .N (v.getLsbD 7)

/-- `C`, then `SetNZ`: the flags of the shifts and rotates (rules R305 to R308). -/
def setCNZ (c : Bool) (v p : Byte) : Byte := setNZ v (setFlag p .C c)

/-- The carry as a number. -/
def carryIn (p : Byte) : Nat := (getFlag p .C).toNat

/-- `a + m + p.C` of rules R290 and R291, a natural number of 0 to 0x1FF. -/
def addSum (a m p : Byte) : Nat := a.toNat + m.toNat + carryIn p

/-- The result byte of ADC (rule R290), and of SBC on the complemented operand (rule R291). -/
def addResult (a m p : Byte) : Byte := BitVec.ofNat 8 (addSum a m p)

/-- The flags of ADC and SBC: C, V, Z, N (rules R290, R291). D is ignored. -/
def addFlags (a m p : Byte) : Byte :=
  let t := addSum a m p
  let r := addResult a m p
  let v := ((~~~(a ^^^ m)) &&& (a ^^^ r) &&& 0x80#8) != 0#8
  setNZ r (setFlag (setFlag p .C (decide (t > 0xFF))) .V v)

/-- The flags of CMP, CPX and CPY: C, Z, N from register `r` and operand `m` (rules R296 to R298). -/
def compareFlags (r m p : Byte) : Byte :=
  setFlag (setFlag (setFlag p .C (decide (m.toNat ≤ r.toNat))) .Z (r == m)) .N ((r - m).getLsbD 7)

/-- The flags of BIT: Z from `a & m`, N and V from bits 7 and 6 of the operand (rule R295). -/
def bitFlags (a m p : Byte) : Byte :=
  setFlag (setFlag (setFlag p .Z ((a &&& m) == 0)) .N (m.getLsbD 7)) .V (m.getLsbD 6)

end Sys2Proof.Machine
end

