-- ==== Sys2Proof/Machine/Ops.lean ====
section
/-! DEFINITION. The named operations over the bus and the CPU's registers: the stored memory, the bus map with its
reads and writes (spec/20_memory.md), the stack (spec/45_cpu_control.md), the software trap, and the operations of
the host on bus and cartridge. -/

namespace Sys2Proof.Machine

/-! ## Stored memory -/

/-- What a cell that no entry lists holds: 0, the contents at construction (rule R59). -/
def unlistedByte : Byte := 0

/-- Whether a number is the address of a stored cell: RAM or battery RAM (rules R55, R56). -/
def isCell (k : Nat) : Bool := k < 0x0800 || (0x6000 ≤ k && k < 0x8000)

/-- The byte a cell holds. -/
def Memory.get (m : Memory) (k : Nat) : Byte :=
  match m with
  | [] => unlistedByte
  | (a, v) :: rest => if a = k then v else Memory.get rest k

/-- Store a byte in a cell, keeping the canonical form: writing what an unlisted cell holds removes the entry. -/
def Memory.put (m : Memory) (k : Nat) (v : Byte) : Memory :=
  match m with
  | [] => if v = unlistedByte then [] else [(k, v)]
  | (a, w) :: rest =>
    if k < a then (if v = unlistedByte then (a, w) :: rest else (k, v) :: (a, w) :: rest)
    else if k = a then (if v = unlistedByte then rest else (k, v) :: rest)
    else (a, w) :: Memory.put rest k v

/-- Every address of the list is above `low`, and each is above the one before it. -/
def Memory.risesFrom (low : Nat) : Memory → Bool
  | [] => true
  | (a, _) :: rest => decide (low < a) && Memory.risesFrom a rest

/-- The canonical form: addresses strictly rising, each a stored cell, and no entry equal to what an unlisted cell
holds. -/
def Memory.wf (m : Memory) : Bool :=
  (match m with
    | [] => true
    | (a, _) :: rest => Memory.risesFrom a rest) &&
  m.all fun c => isCell c.1 && c.2 != unlistedByte

/-! ## The bus map -/

/-- What an address of the bus is (rule R71). RAM is mirrored every 0x0800 (rule R72); the bank registers are decoded
by the low three address bits (rule R76). -/
def region (addr : Word) : Region :=
  let n := addr.toNat
  if n ≤ 0x1FFF then .ram (n % 0x0800)
  else if n ≤ 0x3FFF then .hole
  else if n ≤ 0x401F then .apu (addr.setWidth 5)
  else if n ≤ 0x4FFF then .hole
  else if n ≤ 0x5FFF then .bank (addr.setWidth 3)
  else if n ≤ 0x7FFF then .bram n
  else if n ≤ 0xFFF9 then .rom
  else .vectors

/-- `bank[i]` (rule R57). -/
def Bus.bankReg (b : Bus) (i : BitVec 3) : Byte := b.bank[i.toNat]'(i.isLt)

/-- `RomLookup(n)` (rule R93): the first registered block that holds `n`, else 0xFF. -/
def romLookup (blocks : List Block) (n : Nat) : Byte :=
  match blocks with
  | [] => 0xFF
  | b :: rest =>
    if b.base.toNat ≤ n ∧ n < b.base.toNat + b.bytes.length then b.bytes.getD (n - b.base.toNat) 0xFF
    else romLookup rest n

/-- `Mapper031(addr)` (rule R91): the linear address, a natural number, of a ROM address while banking is enabled. -/
def Bus.mapper031 (b : Bus) (addr : Word) : Nat :=
  b.mapperBase.toNat + (b.bankReg ((addr >>> 12).setWidth 3)).toNat * 0x1000 + addr.toNat % 0x1000

/-- `MemRead(addr, 1)` (rule R80). It changes nothing, so it is a function of the bus alone: the APU window reads 0
(rule R82). -/
def Bus.read (b : Bus) (addr : Word) : Byte :=
  match region addr with
  | .ram key => Memory.get b.mem key
  | .hole => 0xFF
  | .apu _ => apuRead addr
  | .bank i => b.bankReg i
  | .bram key => Memory.get b.mem key
  | .rom => romLookup b.blocks (if b.bankingEnabled then b.mapper031 addr else addr.toNat)
  | .vectors => romLookup b.blocks addr.toNat

/-- A bank register write (rule R88): all 8 bits are stored, and banking is enabled. -/
def Bus.writeBank (i : BitVec 3) (v : Byte) (b : Bus) : Bus :=
  { b with bank := b.bank.set i.toNat v i.isLt, bankingEnabled := true }

/-- One bus read of the CPU or the host (rules R80, R355). -/
def memRead (s : State) (addr : Word) : Byte := s.bus.read addr

/-- `MemRead(addr, 2)` (rule R90): the low byte at `addr`, the high byte at the next address modulo 0x10000. -/
def memRead16 (s : State) (addr : Word) : Word := wordOf (memRead s addr) (memRead s (addr + 1))

/-- The effect of `MemWrite(addr, 1, v)` (rule R85): a write to a hole or to ROM changes nothing (rule R86). -/
def memWrite (s : State) (addr : Word) (v : Byte) : State :=
  match region addr with
  | .ram key => { s with bus := { s.bus with mem := Memory.put s.bus.mem key v } }
  | .apu i => { s with apu := s.apu.write i v }
  | .bank i => { s with bus := s.bus.writeBank i v }
  | .bram key => { s with bus := { s.bus with mem := Memory.put s.bus.mem key v } }
  | .hole => s
  | .rom => s
  | .vectors => s

/-- The Boolean result of `MemWrite` (rule R85), which the CPU drops. -/
def writeAccepted (addr : Word) : Bool :=
  match region addr with
  | .ram _ => true
  | .apu _ => true
  | .bank _ => true
  | .bram _ => true
  | .hole => false
  | .rom => false
  | .vectors => false

/-! ## The CPU's registers and stack -/

/-- Move `pc` past `n` bytes of the instruction, modulo 0x10000 (rule R22). -/
def advance (n : Nat) (s : State) : State := { s with cpu := { s.cpu with pc := s.cpu.pc + BitVec.ofNat 16 n } }

/-- `pc <- target`. -/
def setPc (target : Word) (s : State) : State := { s with cpu := { s.cpu with pc := target } }

/-- `p <- v`. -/
def setP (v : Byte) (s : State) : State := { s with cpu := { s.cpu with p := v } }

/-- `a <- v` with no flag. -/
def setA (v : Byte) (s : State) : State := { s with cpu := { s.cpu with a := v } }

/-- `a <- v; SetNZ(a)`. -/
def loadA (v : Byte) (s : State) : State := { s with cpu := { s.cpu with a := v, p := setNZ v s.cpu.p } }

/-- `x <- v; SetNZ(x)`. -/
def loadX (v : Byte) (s : State) : State := { s with cpu := { s.cpu with x := v, p := setNZ v s.cpu.p } }

/-- `y <- v; SetNZ(y)`. -/
def loadY (v : Byte) (s : State) : State := { s with cpu := { s.cpu with y := v, p := setNZ v s.cpu.p } }

/-- The bus address the stack pointer selects: the stack is fixed at page 0x0100 (rule R21). -/
def stackAddr (sp : Byte) : Word := 0x0100 + sp.setWidth 16

/-- `Push(v)` (rule R321): `sp` is decremented first, and the byte lands at the new `sp`. -/
def push (v : Byte) (s : State) : State :=
  let sp := s.cpu.sp - 1
  memWrite { s with cpu := { s.cpu with sp := sp } } (stackAddr sp) v

/-- `Push(w[15:8]); Push(w[7:0])` (rule R320). -/
def push16 (w : Word) (s : State) : State := push (lowByte w) (push (highByte w) s)

/-- The byte `Pull()` returns (rule R322): the one at the old `sp`. -/
def pullByte (s : State) : Byte := memRead s (stackAddr s.cpu.sp)

/-- The state after `Pull()` (rule R322). -/
def afterPull (s : State) : State := { s with cpu := { s.cpu with sp := s.cpu.sp + 1 } }

/-- `lo = Pull(); hi = Pull()` (rule R320): the 16-bit value pulled. -/
def pull16 (s : State) : Word := wordOf (pullByte s) (pullByte (afterPull s))

/-- The software trap (rules R328, R390), the only entry the block has: push the return address, push `p` with B and U
set in the copy, set I, and take `pc` from the vector. There is no return beside it: RTI is not an instruction of this
hardware (rules R119, R328), and `CpuError` is a fault that enters no handler (rule R380). -/
def takeTrap (returnAddr vector : Word) (s : State) : State :=
  let s := push16 returnAddr s
  let s := push (s.cpu.p ||| 0x30) s
  let s := setP (setFlag s.cpu.p .I true) s
  setPc (memRead16 s vector) s

/-! ## The host's operations on CPU, bus and cartridge -/

/-- Bus `reset()` (rule R59): bank registers 0 and banking off; memory and blocks are kept. -/
def Bus.doReset (b : Bus) : Bus := { b with bank := Vector.replicate 8 0, bankingEnabled := false }

/-- Bus `power()` (rule R59): as `reset()`, and RAM and battery RAM are zeroed. -/
def Bus.doPower (b : Bus) : Bus := { b.doReset with mem := [] }

/-- `setBlock(base, bytes)` (rule R353): a fifth block is dropped (rule R384). -/
def Bus.setBlock (base : Word) (bytes : List Byte) (b : Bus) : Bus :=
  if maxBlocks ≤ b.blocks.length then b
  else
    let floor := base &&& 0xF000
    { b with
      blocks := b.blocks ++ [{ base := base, bytes := bytes }]
      mapperBase := if b.blocks = [] then floor else if floor ≤ b.mapperBase then floor else b.mapperBase }

/-- What `call(addr, n)` does before it runs (rule R343): the stop marker, the faked JSR's push, and the jump. -/
def enterCall (addr : Word) (s : State) : State :=
  let s := { s with cpu := { s.cpu with stopSp := s.cpu.sp } }
  let s := push16 (s.cpu.pc - 1) s
  setPc addr s

/-! ## Placing an instruction for a fetch -/

/-- Where three instruction bytes can be stored in place: all of them in RAM or all in battery RAM. -/
def holdsInstruction (pc : Word) : Bool :=
  pc.toNat ≤ 0x1FFD || (0x6000 ≤ pc.toNat && pc.toNat ≤ 0x7FFD)

/-- The state in which the next step single-steps the CPU over the instruction whose bits are `w`
(notes/assumptions/20.md): the host asks for nothing else, `pc` stays where memory can hold the bytes and otherwise
moves to 0x0200, and the three bytes are stored there. -/
def placeFetchWord (nbits w : Nat) (s : State) : State :=
  let pc := if holdsInstruction s.cpu.pc then s.cpu.pc else 0x0200
  let s := { s with host := { s.host with queue := [], run := none, stopped := false } }
  let s := setPc pc s
  match wordBytes nbits w with
  | [b0, b1, b2] => memWrite (memWrite (memWrite s pc b0) (pc + 1) b1) (pc + 2) b2
  | _ => s

end Sys2Proof.Machine
end

