-- ==== Sys2Proof/Machine/ApuSample.lean ====
section
/-! DEFINITION. `ApuSample()`, one step of the APU: the frame sequencer, the five channel timers, the outputs and the
mixer, in the order of rule R230 (spec/42_apu_sample.md). -/

namespace Sys2Proof.Machine

/-! ## The frame sequencer -/

/-- `EnvelopeClock(k)` (rule R237). -/
def Apu.envelopeClock (k : ChannelId) (a : Apu) : Apu :=
  let control := a.reg k.controlReg
  let reload := control.extractLsb' 0 4
  let c := a.channel k
  a.setChannel k <|
    if c.updateEnvelope then { c with updateEnvelope := false, decayCounter := 15, divider := reload }
    else if c.divider = 0 then
      { c with
        divider := reload
        decayCounter :=
          if c.decayCounter ≠ 0 then c.decayCounter - 1
          else if control.getLsbD 5 then 15
          else c.decayCounter }
    else { c with divider := c.divider - 1 }

/-- The bit of a channel's control register that stops its length counter (rule R238). -/
def ChannelId.haltBit : ChannelId → Nat
  | .pulse1 => 5
  | .pulse2 => 5
  | .triangle => 7
  | .noise => 5
  | .dmc => 5

/-- `LengthClock(k)` (rule R238). It stops at 0. -/
def Apu.lengthClock (k : ChannelId) (a : Apu) : Apu :=
  let c := a.channel k
  if !(a.reg k.controlReg).getLsbD k.haltBit && c.lenCounter != 0 then
    a.setChannel k { c with lenCounter := c.lenCounter - 1 }
  else a

/-- `LinearClock()` (rule R239). -/
def Apu.linearClock (a : Apu) : Apu :=
  let control := a.reg 0x08
  let c := a.triangle
  { a with
    triangle :=
      { c with
        linearCounter :=
          if c.linearReloadFlag then (control.extractLsb' 0 7).toNat
          else c.linearCounter - 1
        linearReloadFlag := if control.getLsbD 7 then c.linearReloadFlag else false } }

/-- `SweepClock(k)` (rule R241), `i` being the sweep register. The target period it computes is discarded, so only the
divider is here (rule R33; notes/assumptions/22.md). -/
def Apu.sweepClock (k : ChannelId) (i : BitVec 5) (a : Apu) : Apu :=
  let c := a.channel k
  a.setChannel k
    { c with
      sweepCounter := if c.sweepCounter = 0 then ((a.reg i).extractLsb' 4 3).toNat else c.sweepCounter - 1 }

/-- The `quarter` clocks of a frame step (rule R232). -/
def Apu.quarterClocks (a : Apu) : Apu :=
  (((a.envelopeClock .pulse1).envelopeClock .pulse2).envelopeClock .noise).linearClock

/-- The `half` clocks of a frame step (rule R232). -/
def Apu.halfClocks (a : Apu) : Apu :=
  let a := (((a.lengthClock .pulse1).lengthClock .pulse2).lengthClock .triangle).lengthClock .noise
  (a.sweepClock .pulse1 0x01).sweepClock .pulse2 0x05

/-- `FrameStep()` (rules R232 and R233); step numbers count from 1. -/
def Apu.frameStep (a : Apu) : Apu :=
  let step := a.frames + 1
  let mode5 := (a.reg 0x17).getLsbD 7
  let q := if mode5 then step != 4 else true
  let h := if mode5 then step == 2 || step == 5 else step == 2 || step == 4
  let f := if mode5 then decide (5 ≤ step) else decide (4 ≤ step)
  let a := { a with quarter := q, half := h, full := f }
  let a := if q then a.quarterClocks else a
  let a := if h then a.halfClocks else a
  { a with frames := if f then 0 else step }

/-- The frame period in fixed-point units (rules R13, R231). -/
def framePeriod : Nat := framePeriodCycles * sampleRateHz

/-- The start of `ApuSample()`: clear the three signals and run the frame steps that are due (rules R230, R231). -/
def Apu.runFrames (a : Apu) : Apu :=
  let a := { a with quarter := false, half := false, full := false }
  turns Apu.frameStep (a.lastFrameCounter / framePeriod)
    { a with lastFrameCounter := a.lastFrameCounter % framePeriod }

/-! ## The channel timers -/

/-- How often the timer of channel `k` turns in this sample (rules R242 to R250). -/
def Apu.timerTurns (a : Apu) (k : ChannelId) : Nat := (a.channel k).counter / a.period k

/-- What the timer's turns leave in the counter of channel `k`. -/
def Apu.reduceCounter (k : ChannelId) (a : Apu) : Apu :=
  a.setChannel k { a.channel k with counter := (a.channel k).counter % a.period k }

/-- `PulseTimer(k)` (rule R242). -/
def Apu.pulseTimer (k : ChannelId) (a : Apu) : Apu :=
  let tick := fun (c : Channel) => { c with sequencer := (c.sequencer + 1) % 8 }
  let n := a.timerTurns k
  let a := a.reduceCounter k
  a.setChannel k (turns tick n (a.channel k))

/-- `TriangleTimer()` (rule R244): the ramp steps only while both counters are non-zero. -/
def Apu.triangleTimer (a : Apu) : Apu :=
  let tick := fun (c : Channel) =>
    if c.lenCounter ≠ 0 ∧ c.linearCounter ≠ 0 then { c with sequencer := (c.sequencer + 1) % 32 } else c
  let n := a.timerTurns .triangle
  let a := a.reduceCounter .triangle
  { a with triangle := turns tick n a.triangle }

/-- One shift of the noise register, in short mode or in long mode (rule R246). -/
def noiseShift (short : Bool) (r : BitVec 15) : BitVec 15 :=
  let fb := r.getLsbD 0 ^^ (if short then r.getLsbD 6 else r.getLsbD 1)
  r >>> 1 ||| (if fb then 0x4000#15 else 0#15)

/-- `NoiseTimer()` (rule R246). -/
def Apu.noiseTimer (a : Apu) : Apu :=
  let n := a.timerTurns .noise
  let a := a.reduceCounter .noise
  { a with noiseLfsr := turns (noiseShift ((a.reg 0x0E).getLsbD 7)) n a.noiseLfsr }

/-- `DmcFetch()` (rule R252): one bus read at the instant of the sample, the address wrapping from 0xFFFF to
0x8000. -/
def Apu.dmcFetch (b : Bus) (a : Apu) : Apu :=
  let a :=
    { a with
      dmcBuffer := b.read a.dmcAddr
      dmc := { a.dmc with sequencer := 8 }
      dmcAddr := if a.dmcAddr = 0xFFFF then 0x8000 else a.dmcAddr + 1
      dmcLen := a.dmcLen - 1 }
  if a.dmcLen ≠ 0 then a
  else if (a.reg 0x10).getLsbD 6 then a.dmcRestart
  else { a with dmcActive := false, dmcIrqFlag := a.dmcIrqFlag || (a.reg 0x10).getLsbD 7 }

/-- `DmcBit()` (rule R253): the delta counter moves by 2, clamped to 0 to 127. -/
def Apu.dmcBit (a : Apu) : Apu :=
  { a with
    dmcDelta := if a.dmcBuffer.getLsbD 0 then min (a.dmcDelta + 2) 127 else a.dmcDelta - 2
    dmcBuffer := a.dmcBuffer >>> 1
    dmc := { a.dmc with sequencer := a.dmc.sequencer - 1 } }

/-- One turn of the DMC's timer (rule R250). -/
def Apu.dmcTick (b : Bus) (a : Apu) : Apu :=
  let a := if a.dmc.sequencer = 0 ∧ a.dmcActive then a.dmcFetch b else a
  if a.dmc.sequencer = 0 then a else a.dmcBit

/-- `DmcTimer()` (rule R250). -/
def Apu.dmcTimer (b : Bus) (a : Apu) : Apu :=
  let n := a.timerTurns .dmc
  turns (Apu.dmcTick b) n (a.reduceCounter .dmc)

/-! ## The outputs -/

/-- The level a pulse or noise channel plays: its constant volume or its envelope (rule R249). -/
def Apu.playedVolume (a : Apu) (k : ChannelId) : BitVec 4 :=
  let control := a.reg k.controlReg
  if control.getLsbD 4 then control.extractLsb' 0 4 else (a.channel k).decayCounter

/-- `PulseOutput(k)` (rule R243), `lo` being the timer's low register. -/
def Apu.pulseOutput (k : ChannelId) (lo : BitVec 5) (a : Apu) : Apu :=
  let t := a.timerValue lo
  let c := a.channel k
  a.setChannel k <|
    if !a.enabled k || c.lenCounter == 0 || decide (t < 8) || decide (0x7FF < t) then { c with output := 0 }
    else
      let volume := a.playedVolume k
      let high := dutyBit ((a.reg k.controlReg).extractLsb' 6 2) c.sequencer
      { c with
        volume := volume
        output := if high then scaledLevel (Config.pulseLevel volume) a.volumePercent else 0 }

/-- `TriangleOutput()` (rule R245). -/
def Apu.triangleOutput (a : Apu) : Apu :=
  let c := a.triangle
  let level := Config.triangleLevel (BitVec.ofNat 4 (rampLevel c.sequencer))
  { a with triangle := { c with output := if a.enabled .triangle then scaledLevel level a.volumePercent else 0 } }

/-- `NoiseOutput()` (rule R248). -/
def Apu.noiseOutput (a : Apu) : Apu :=
  let c := a.noise
  { a with
    noise :=
      if !a.enabled .noise || c.lenCounter == 0 then { c with output := 0 }
      else
        let volume := a.playedVolume .noise
        { c with
          volume := volume
          output := if a.noiseLfsr.getLsbD 0 then 0 else scaledLevel (Config.noiseLevel volume) a.volumePercent } }

/-- `DmcOutput()` (rule R254). -/
def Apu.dmcOutput (a : Apu) : Apu :=
  let top := scaledLevel (Config.dmcLevel 15) a.volumePercent
  { a with dmc := { a.dmc with output := if a.enabled .dmc then top * a.dmcDelta / 127 else 0 } }

/-- The five outputs, in channel order (rule R230). -/
def Apu.outputs (a : Apu) : Apu :=
  (((a.pulseOutput .pulse1 0x02).pulseOutput .pulse2 0x06).triangleOutput).noiseOutput.dmcOutput

/-- `Mix()` (rule R257): the floor of each product, the sum, the clamp. -/
def Apu.mix (a : Apu) : Nat :=
  min 0xFFFF
    (a.pulse1.output * 0xB0 / 256 + a.pulse2.output * 0xB0 / 256 + a.triangle.output * 0x50 / 256 +
      a.noise.output * 0x50 / 256 + a.dmc.output * 0x180 / 256)

/-- The sample word `(m << 16) | m` (rules R60, R258). -/
def sampleWord (m : Nat) : BitVec 32 := BitVec.ofNat 16 m ++ BitVec.ofNat 16 m

/-! ## The end of the sample -/

/-- Grant channel `k` the time of one sample (rule R255). -/
def Apu.grantChannel (k : ChannelId) (a : Apu) : Apu :=
  a.setChannel k { a.channel k with counter := (a.channel k).counter + cpuClockHz }

/-- The grant of one sample's time to every channel and to the frame divider (rules R230, R255). -/
def Apu.grant (a : Apu) : Apu :=
  let a := ((((a.grantChannel .pulse1).grantChannel .pulse2).grantChannel .triangle).grantChannel .noise).grantChannel .dmc
  { a with lastFrameCounter := a.lastFrameCounter + cpuClockHz }

/-- The APU after the outputs of one sample, before the grant (rule R230). -/
def Apu.sampleOutputs (b : Bus) (a : Apu) : Apu :=
  let a := a.runFrames
  let a := (a.pulseTimer .pulse1).pulseTimer .pulse2
  let a := a.triangleTimer.noiseTimer
  (a.dmcTimer b).outputs

/-- `ApuSample()` (rule R230): the APU after it. -/
def Apu.sample (b : Bus) (a : Apu) : Apu := (a.sampleOutputs b).grant

/-- `ApuSample()` (rule R230): the word it returns. -/
def Apu.sampleResult (b : Bus) (a : Apu) : BitVec 32 := sampleWord (a.sampleOutputs b).mix

end Sys2Proof.Machine
end

