-- ==== Sys2Proof/Machine/Operands.lean ====
section
/-! DEFINITION. The operand forms (spec/30_encoding.md rules R120 to R133): effective addresses, operand reads, write
back, jump targets, branch targets, and how many bytes an instruction of each form has (rule R110). -/

namespace Sys2Proof.Machine

/-- The 16-bit number of a zero-page address (rule R123). -/
def zeroPage (d : Byte) : Word := d.setWidth 16

/-- `{hi, lo}` read from page zero at `d` and at the next byte of page zero, with wrap (rules R131, R132). -/
def zeroPagePointer (s : State) (d : Byte) : Word :=
  wordOf (memRead s (zeroPage d)) (memRead s (zeroPage (d + 1)))

/-- The effective address `absAddr` of a memory mode (rules R123 to R125, R127 to R129, R131, R132). Zero-page sums
wrap in page zero, 16-bit sums modulo 0x10000. -/
def effAddr (m : MemMode) (s : State) : Word :=
  match m with
  | .zp d => zeroPage d
  | .zpx d => zeroPage (d + s.cpu.x)
  | .zpy d => zeroPage (d + s.cpu.y)
  | .abs w => w
  | .absx w => w + s.cpu.x.setWidth 16
  | .absy w => w + s.cpu.y.setWidth 16
  | .indx d => zeroPagePointer s (d + s.cpu.x)
  | .indy d => zeroPagePointer s d + s.cpu.y.setWidth 16

/-- `Operand()` of a read operand (rule R133): the byte itself, or one bus read at the effective address. -/
def srcValue (m : Src) (s : State) : Byte :=
  match m with
  | .imm d => d
  | .mem m => memRead s (effAddr m s)

/-- `Operand()` of a shift operand (rule R133): `a` when `implied`, else one bus read. -/
def tgtValue (t : Tgt) (s : State) : Byte :=
  match t with
  | .acc => s.cpu.a
  | .mem m => memRead s (effAddr m s)

/-- `WriteBack(t)` (spec/44_cpu_alu.md section 5): to `a` when `implied`, else one bus write at the effective
address, computed from the same index registers and memory as the operand read. -/
def writeBack (t : Tgt) (v : Byte) (s : State) : State :=
  match t with
  | .acc => setA v s
  | .mem m => memWrite s (effAddr m s) v

/-- The target of a JMP (rules R323, R324, R130): the pointer's second byte is at the next address modulo 0x10000. -/
def jumpTarget (j : JumpMode) (s : State) : Word :=
  match j with
  | .abs w => w
  | .ind ptr => memRead16 s ptr

/-- The sign-extended offset `relAddr` (rule R126). -/
def relAddr (d : Byte) : Word := d.signExtend 16

/-- Bytes of an instruction with a memory operand (rule R110). -/
def memLength (m : MemMode) : Nat :=
  match m with
  | .zp _ => 2
  | .zpx _ => 2
  | .zpy _ => 2
  | .abs _ => 3
  | .absx _ => 3
  | .absy _ => 3
  | .indx _ => 2
  | .indy _ => 2

/-- Bytes of an instruction with a read operand (rule R110). -/
def srcLength (m : Src) : Nat :=
  match m with
  | .imm _ => 2
  | .mem m => memLength m

/-- Bytes of a shift or rotate (rule R110). -/
def tgtLength (t : Tgt) : Nat :=
  match t with
  | .acc => 1
  | .mem m => memLength m

/-- A conditional branch (rules R330 to R335): `pc` past the two bytes, then the offset added if the branch is
taken. -/
def branchIf (taken : Bool) (d : Byte) (s : State) : State :=
  let s := advance 2 s
  if taken then setPc (s.cpu.pc + relAddr d) s else s

end Sys2Proof.Machine
end

