-- ==== Sys2Proof/Machine/Alu.lean ====
section
/-! DEFINITION. Arithmetic, logic, compare, increment and decrement, shifts and rotates (spec/44_cpu_alu.md). -/

namespace Sys2Proof.Machine

/-- `a + m + C` into `a`, with C, V, Z, N (rules R290, R291); binary whatever D holds. -/
def addToA (m : Byte) (s : State) : State :=
  { s with cpu := { s.cpu with a := addResult s.cpu.a m s.cpu.p, p := addFlags s.cpu.a m s.cpu.p } }

/-- ADC (rule R290). -/
def execAdc (m : Src) (s : State) : Result := .next (addToA (srcValue m s) (advance (srcLength m) s))

/-- SBC (rule R291): ADC of the one's complement. -/
def execSbc (m : Src) (s : State) : Result := .next (addToA (srcValue m s ^^^ 0xFF#8) (advance (srcLength m) s))

/-- AND (rule R292). -/
def execAnd (m : Src) (s : State) : Result := .next (loadA (s.cpu.a &&& srcValue m s) (advance (srcLength m) s))

/-- ORA (rule R293). -/
def execOra (m : Src) (s : State) : Result := .next (loadA (s.cpu.a ||| srcValue m s) (advance (srcLength m) s))

/-- EOR (rule R294). -/
def execEor (m : Src) (s : State) : Result := .next (loadA (s.cpu.a ^^^ srcValue m s) (advance (srcLength m) s))

/-- BIT (rule R295): flags only. -/
def execBit (m : MemMode) (s : State) : Result :=
  .next (setP (bitFlags s.cpu.a (memRead s (effAddr m s)) s.cpu.p) (advance (memLength m) s))

/-- CMP (rule R296): flags only. -/
def execCmp (m : Src) (s : State) : Result :=
  .next (setP (compareFlags s.cpu.a (srcValue m s) s.cpu.p) (advance (srcLength m) s))

/-- CPX (rule R297): flags only. -/
def execCpx (m : Src) (s : State) : Result :=
  .next (setP (compareFlags s.cpu.x (srcValue m s) s.cpu.p) (advance (srcLength m) s))

/-- CPY (rule R298): flags only. -/
def execCpy (m : Src) (s : State) : Result :=
  .next (setP (compareFlags s.cpu.y (srcValue m s) s.cpu.p) (advance (srcLength m) s))

/-- Add `delta` to the byte at the effective address: one read, one write, Z and N of the new byte (rules R299,
R302). A dropped write leaves the flags as computed. -/
def addToMemory (delta : Byte) (m : MemMode) (s : State) : State :=
  let t := memRead s (effAddr m s) + delta
  setP (setNZ t s.cpu.p) (memWrite (advance (memLength m) s) (effAddr m s) t)

/-- INC (rule R299). -/
def execInc (m : MemMode) (s : State) : Result := .next (addToMemory 1 m s)

/-- DEC (rule R302). -/
def execDec (m : MemMode) (s : State) : Result := .next (addToMemory 0xFF m s)

/-- INX (rule R300). -/
def execInx (s : State) : Result := .next (loadX (s.cpu.x + 1) (advance 1 s))

/-- INY (rule R301). -/
def execIny (s : State) : Result := .next (loadY (s.cpu.y + 1) (advance 1 s))

/-- DEX (rule R303). -/
def execDex (s : State) : Result := .next (loadX (s.cpu.x - 1) (advance 1 s))

/-- DEY (rule R304). -/
def execDey (s : State) : Result := .next (loadY (s.cpu.y - 1) (advance 1 s))

/-- A shift or rotate whose result is `v` and whose carry out is `c` (rules R305 to R308). -/
def shiftTo (t : Tgt) (v : Byte) (c : Bool) (s : State) : State :=
  setP (setCNZ c v s.cpu.p) (writeBack t v (advance (tgtLength t) s))

/-- ASL (rule R305). -/
def execAsl (t : Tgt) (s : State) : Result :=
  .next (shiftTo t (tgtValue t s <<< 1) ((tgtValue t s).getLsbD 7) s)

/-- LSR (rule R306). -/
def execLsr (t : Tgt) (s : State) : Result :=
  .next (shiftTo t (tgtValue t s >>> 1) ((tgtValue t s).getLsbD 0) s)

/-- ROL (rule R307): the old carry enters bit 0. -/
def execRol (t : Tgt) (s : State) : Result :=
  .next (shiftTo t (tgtValue t s <<< 1 ||| BitVec.ofNat 8 (carryIn s.cpu.p)) ((tgtValue t s).getLsbD 7) s)

/-- ROR (rule R308): the old carry enters bit 7. -/
def execRor (t : Tgt) (s : State) : Result :=
  .next (shiftTo t (tgtValue t s >>> 1 ||| BitVec.ofNat 8 (carryIn s.cpu.p) <<< 7) ((tgtValue t s).getLsbD 0) s)

end Sys2Proof.Machine
end

