-- ==== Sys2Proof/Machine/Ay.lean ====
section
/-! DEFINITION. The AY-3-8910 / YM2149 (spec/40_ay_psg.md): its register writes, its configuration, and `AySample()`,
one step of the AY. -/

namespace Sys2Proof.Machine

/-- `ay.reg[i]` (rule R45). -/
def Ay.reg (a : Ay) (i : BitVec 4) : Word := a.regs[i.toNat]'(i.isLt)

/-- `ay.reg[i] <- v`, whole (rule R152). -/
def Ay.setReg (i : BitVec 4) (v : Word) (a : Ay) : Ay := { a with regs := a.regs.set i.toNat v i.isLt }

/-! ## Register writes -/

/-- Write of register 0, 2 or 4 (rule R153): the period follows from the registers. -/
def Ay.writeToneLow (c : AyChannel) (v : Word) (a : Ay) : Ay := a.setReg (BitVec.ofNat 4 (2 * c.index)) v

/-- Write of register 1, 3 or 5 (rule R153). -/
def Ay.writeToneHigh (c : AyChannel) (v : Word) (a : Ay) : Ay := a.setReg (BitVec.ofNat 4 (2 * c.index + 1)) v

/-- Write of register 6 (rule R154). -/
def Ay.writeNoisePeriod (v : Word) (a : Ay) : Ay := a.setReg 6 v

/-- Write of register 7 (rule R155). -/
def Ay.writeMixer (v : Word) (a : Ay) : Ay := a.setReg 7 v

/-- Write of register 8, 9 or 10 (rule R156). -/
def Ay.writeAmplitude (c : AyChannel) (v : Word) (a : Ay) : Ay := a.setReg (BitVec.ofNat 4 (8 + c.index)) v

/-- Write of register 11 (rule R157). -/
def Ay.writeEnvPeriodLow (v : Word) (a : Ay) : Ay := a.setReg 11 v

/-- Write of register 12 (rule R157). -/
def Ay.writeEnvPeriodHigh (v : Word) (a : Ay) : Ay := a.setReg 12 v

/-- Write of register 13 (rule R158): the envelope restarts. -/
def Ay.writeEnvShape (v : Word) (a : Ay) : Ay :=
  { a.setReg 13 v with envPos := 0, envRamp := false, envHolding := false, envCounter := 0 }

/-- Write of register 14 or 15 (rule R159): stored, no effect. -/
def Ay.writePort (p : AyPort) (v : Word) (a : Ay) : Ay :=
  match p with
  | .reg14 => a.setReg 14 v
  | .reg15 => a.setReg 15 v

/-- `AyRead(reg)` (rule R160): the value last written, 0 above register 15. -/
def Ay.read (reg : Nat) (a : Ay) : Word := a.regs.toList.getD reg 0

/-! ## Configuration and reset -/

/-- `setType(chipType, flags)` (rule R151). -/
def Ay.setType (chipType : Nat) (flags : Byte) (a : Ay) : Ay := { a with chipType := chipType, flags := flags }

/-- `setFrequency(hz)` (rule R161). -/
def Ay.setFrequency (hz : Nat) (a : Ay) : Ay := { a with clockHz := hz }

/-- `setSampleFrequency(hz)` (rule R161): counters are not rescaled. -/
def Ay.setSampleFrequency (hz : Nat) (a : Ay) : Ay := { a with sampleRateHz := hz }

/-- `setVolume(percent)` (rule R162). -/
def Ay.setVolume (percent : Nat) (a : Ay) : Ay := { a with volumePercent := percent }

/-- `AyReset()` (rules R47, R179): type, flags, clock, sample rate and volume are kept. -/
def Ay.doReset (a : Ay) : Ay :=
  { Ay.initial with
    chipType := a.chipType, flags := a.flags, clockHz := a.clockHz, sampleRateHz := a.sampleRateHz,
    volumePercent := a.volumePercent, freeCount := a.freeCount }

/-! ## Views of the registers -/

/-- Whether the chip type is the AY8930 variant (rule R151). -/
def Ay.is8930 (a : Ay) : Bool := Config.isAY8930 a.chipType

/-- `ay.envStepMask`: the last step of the envelope (rules R46, R151). -/
def Ay.envStepMask (a : Ay) : BitVec 5 := if a.is8930 then 0x1F else 0x0F

/-- `TP[c]`: the tone period value of channel `c`, 16 bits on the AY8930 and 12 otherwise (rule R171). -/
def Ay.tonePeriodValue (a : Ay) (c : AyChannel) : Nat :=
  let hi := a.reg (BitVec.ofNat 4 (2 * c.index + 1))
  let lo := (a.reg (BitVec.ofNat 4 (2 * c.index))).setWidth 8
  let all : BitVec 24 := hi ++ lo
  (all &&& if a.is8930 then 0xFFFF else 0x0FFF).toNat

/-- A period value counts as at least 1, and is scaled to the unit of rule R170 (rule R171). -/
def Ay.scalePeriod (a : Ay) (value : Nat) : Nat := max value 1 * ayTickDiv * a.sampleRateHz

/-- `ay.period[c]` (rule R171). -/
def Ay.tonePeriod (a : Ay) (c : AyChannel) : Nat := a.scalePeriod (a.tonePeriodValue c)

/-- `ay.noisePeriod` (rule R171). -/
def Ay.noisePeriod (a : Ay) : Nat := a.scalePeriod ((a.reg 6).extractLsb' 0 5).toNat

/-- `ay.envPeriod` (rule R171). -/
def Ay.envPeriod (a : Ay) : Nat :=
  let value : BitVec 16 := (a.reg 12).setWidth 8 ++ (a.reg 11).setWidth 8
  a.scalePeriod value.toNat

/-- `continue`, bit 3 of register 13 (rule R145). -/
def Ay.shapeContinue (a : Ay) : Bool := (a.reg 13).getLsbD 3

/-- `attack`, bit 2 of register 13. -/
def Ay.shapeAttack (a : Ay) : Bool := (a.reg 13).getLsbD 2

/-- `alternate`, bit 1 of register 13. -/
def Ay.shapeAlternate (a : Ay) : Bool := (a.reg 13).getLsbD 1

/-- `hold`, bit 0 of register 13. -/
def Ay.shapeHold (a : Ay) : Bool := (a.reg 13).getLsbD 0

/-- The tone channel of `c`. -/
def Ay.tone (a : Ay) : AyChannel → AyTone
  | .A => a.toneA
  | .B => a.toneB
  | .C => a.toneC

/-- The AY with the tone channel of `c` replaced. -/
def Ay.setTone (a : Ay) (c : AyChannel) (t : AyTone) : Ay :=
  match c with
  | .A => { a with toneA := t }
  | .B => { a with toneB := t }
  | .C => { a with toneC := t }

/-! ## AySample() -/

/-- `ToneStep(c)` (rule R172): the phase flips once per turn. -/
def Ay.toneStep (c : AyChannel) (a : Ay) : Ay :=
  let t := a.tone c
  let period := a.tonePeriod c
  a.setTone c { counter := t.counter % period, phase := turns (fun b => !b) (t.counter / period) t.phase }

/-- One shift of the AY's noise register (rule R173). -/
def ayNoiseShift (r : BitVec 17) : BitVec 17 :=
  let fb := r.getLsbD 0 ^^ r.getLsbD 3
  r >>> 1 ||| (if fb then 0x10000#17 else 0#17)

/-- `NoiseStep()` (rule R173). -/
def Ay.noiseStep (a : Ay) : Ay :=
  { a with
    noiseCounter := a.noiseCounter % a.noisePeriod
    noiseLfsr := turns ayNoiseShift (a.noiseCounter / a.noisePeriod) a.noiseLfsr }

/-- One turn of the envelope's loop (rule R174). -/
def Ay.envTick (a : Ay) : Ay :=
  if a.envHolding then a
  else if a.envPos < a.envStepMask then { a with envPos := a.envPos + 1 }
  else if !a.shapeContinue || a.shapeHold then { a with envHolding := true }
  else { a with envPos := 0, envRamp := if a.shapeAlternate then !a.envRamp else a.envRamp }

/-- `EnvStep()` (rule R174). -/
def Ay.envStep (a : Ay) : Ay :=
  turns Ay.envTick (a.envCounter / a.envPeriod) { a with envCounter := a.envCounter % a.envPeriod }

/-- `EnvLevel()` (rule R175); none where the rule states no level, because `envPos` lies beyond the mask
(notes/assumptions/6.md). -/
def Ay.envLevel (a : Ay) : Option (BitVec 5) :=
  let top := a.envStepMask
  if a.envHolding then
    if !a.shapeContinue then some 0
    else some (if a.shapeAttack != a.shapeAlternate then top else 0)
  else if top < a.envPos then none
  else
    let up := a.shapeAttack != (a.shapeAlternate && a.envRamp)
    some (if up then a.envPos else top - a.envPos)

/-- `EnvIndex(l)` (rule R177). -/
def Ay.envIndex (a : Ay) (l : BitVec 5) : BitVec 5 := if a.envStepMask = 0x1F then l else 2 * l + 1

/-- `FixedIndex(v)` (rule R177). -/
def fixedIndex (v : BitVec 4) : BitVec 5 := if v = 0 then 0 else 2 * v.setWidth 5 + 1

/-- The amplitude of the envelope: its table entry or, where its level is unstated (rule R175), a free base amplitude.
Both are scaled by the volume, as rules R46 and R162 scale every entry of `AY_LEVEL_v`; that the unstated amplitude is
scaled too is the model's (DESIGN CHOICE, notes/assumptions/6.md). -/
def Ay.envAmplitude (a : Ay) : Nat :=
  match a.envLevel with
  | some l => scaledLevel (Config.ayLevel (a.envIndex l)) a.volumePercent
  | none => scaledLevel (Config.freeAyAmplitude a.freeCount) a.volumePercent

/-- `ay.mixer`, register 7 (rules R46, R155). -/
def Ay.mixerBit (a : Ay) (i : Nat) : Bool := (a.reg 7).getLsbD i

/-- `ChannelAmp(c)` (rule R176). The mixer's bits are active low. -/
def Ay.channelAmp (a : Ay) (c : AyChannel) : Nat :=
  let toneGate := (a.tone c).phase || a.mixerBit c.index
  let noiseGate := a.noiseLfsr.getLsbD 0 || a.mixerBit (3 + c.index)
  let amp := a.reg (BitVec.ofNat 4 (8 + c.index))
  if !(toneGate && noiseGate) then 0
  else if amp.getLsbD 4 then a.envAmplitude
  else scaledLevel (Config.ayLevel (fixedIndex (amp.extractLsb' 0 4))) a.volumePercent

/-- The three steps of the generators (rule R170). -/
def Ay.generators (a : Ay) : Ay :=
  (((a.toneStep .A).toneStep .B).toneStep .C).noiseStep.envStep

/-- The sum of the three channels, clamped (rule R178). -/
def Ay.output (a : Ay) : Nat := min 0xFFFF (a.channelAmp .A + a.channelAmp .B + a.channelAmp .C)

/-- The grant of one sample's time to every counter (rule R170), and the next free value if this sample's envelope
level was unstated. -/
def Ay.grant (a : Ay) : Ay :=
  { a with
    toneA := { a.toneA with counter := a.toneA.counter + a.clockHz }
    toneB := { a.toneB with counter := a.toneB.counter + a.clockHz }
    toneC := { a.toneC with counter := a.toneC.counter + a.clockHz }
    noiseCounter := a.noiseCounter + a.clockHz
    envCounter := a.envCounter + a.clockHz
    freeCount := if a.envLevel.isNone then a.freeCount + 1 else a.freeCount }

/-- `AySample()` (rule R170): the AY after it. -/
def Ay.sample (a : Ay) : Ay := a.generators.grant

/-- `AySample()` (rules R170, R178): the word it returns, the same amplitude on both sides. -/
def Ay.sampleResult (a : Ay) : BitVec 32 :=
  let out := a.generators.output
  BitVec.ofNat 16 out ++ BitVec.ofNat 16 out

end Sys2Proof.Machine
end

