-- ==== Sys2Proof/Machine/Commands.lean ====
section
/-! DEFINITION. The register commands as instructions: the APU's (spec/41_apu_registers.md), the bank registers'
(spec/20_memory.md rule R88) and the AY's (spec/40_ay_psg.md). None touches the CPU: the host issues them between
instructions. A CPU store reaches the same APU and bank operations through the bus map. -/

namespace Sys2Proof.Machine

/-- Command of rule R192. -/
def execApuPulse1Control (v : Byte) (s : State) : Result := .next { s with apu := s.apu.writePulse1Control v }

/-- Command of rule R193. -/
def execApuPulse1Sweep (v : Byte) (s : State) : Result := .next { s with apu := s.apu.writePulse1Sweep v }

/-- Command of rule R194. -/
def execApuPulse1TimerLow (v : Byte) (s : State) : Result := .next { s with apu := s.apu.writePulse1TimerLow v }

/-- Command of rule R195. -/
def execApuPulse1Length (v : Byte) (s : State) : Result := .next { s with apu := s.apu.writePulse1Length v }

/-- Command of rule R196. -/
def execApuPulse2Control (v : Byte) (s : State) : Result := .next { s with apu := s.apu.writePulse2Control v }

/-- Command of rule R197. -/
def execApuPulse2Sweep (v : Byte) (s : State) : Result := .next { s with apu := s.apu.writePulse2Sweep v }

/-- Command of rule R198. -/
def execApuPulse2TimerLow (v : Byte) (s : State) : Result := .next { s with apu := s.apu.writePulse2TimerLow v }

/-- Command of rule R199. -/
def execApuPulse2Length (v : Byte) (s : State) : Result := .next { s with apu := s.apu.writePulse2Length v }

/-- Command of rule R200. -/
def execApuTriangleControl (v : Byte) (s : State) : Result := .next { s with apu := s.apu.writeTriangleControl v }

/-- Command of rule R201. -/
def execApuTriangleTimerLow (v : Byte) (s : State) : Result := .next { s with apu := s.apu.writeTriangleTimerLow v }

/-- Command of rule R202. -/
def execApuTriangleLength (v : Byte) (s : State) : Result := .next { s with apu := s.apu.writeTriangleLength v }

/-- Command of rule R203. -/
def execApuNoiseControl (v : Byte) (s : State) : Result := .next { s with apu := s.apu.writeNoiseControl v }

/-- Command of rule R204. -/
def execApuNoiseMode (v : Byte) (s : State) : Result := .next { s with apu := s.apu.writeNoiseMode v }

/-- Command of rule R205. -/
def execApuNoiseLength (v : Byte) (s : State) : Result := .next { s with apu := s.apu.writeNoiseLength v }

/-- Command of rule R206. -/
def execApuDmcControl (v : Byte) (s : State) : Result := .next { s with apu := s.apu.writeDmcControl v }

/-- Command of rule R207. -/
def execApuDmcDelta (v : Byte) (s : State) : Result := .next { s with apu := s.apu.writeDmcDelta v }

/-- Command of rule R208. -/
def execApuDmcAddress (v : Byte) (s : State) : Result := .next { s with apu := s.apu.writeDmcAddress v }

/-- Command of rule R209. -/
def execApuDmcLength (v : Byte) (s : State) : Result := .next { s with apu := s.apu.writeDmcLength v }

/-- Command of rule R210. -/
def execApuEnables (v : Byte) (s : State) : Result := .next { s with apu := s.apu.writeEnables v }

/-- Command of rule R211. -/
def execApuFrameCounter (v : Byte) (s : State) : Result := .next { s with apu := s.apu.writeFrameCounter v }

/-- Command of rule R215. -/
def execApuUnlisted (r : UnlistedReg) (v : Byte) (s : State) : Result :=
  .next { s with apu := s.apu.writeUnlisted r v }

/-- A write of `v` to bus address `0x5000 + off` (rule R88). -/
def execBankSelect (off : BitVec 12) (v : Byte) (s : State) : Result :=
  .next { s with bus := s.bus.writeBank (off.setWidth 3) v }

/-- Command of rule R153. -/
def execAyToneLow (c : AyChannel) (v : Word) (s : State) : Result := .next { s with ay := s.ay.writeToneLow c v }

/-- Command of rule R153. -/
def execAyToneHigh (c : AyChannel) (v : Word) (s : State) : Result := .next { s with ay := s.ay.writeToneHigh c v }

/-- Command of rule R154. -/
def execAyNoisePeriod (v : Word) (s : State) : Result := .next { s with ay := s.ay.writeNoisePeriod v }

/-- Command of rule R155. -/
def execAyMixer (v : Word) (s : State) : Result := .next { s with ay := s.ay.writeMixer v }

/-- Command of rule R156. -/
def execAyAmplitude (c : AyChannel) (v : Word) (s : State) : Result := .next { s with ay := s.ay.writeAmplitude c v }

/-- Command of rule R157. -/
def execAyEnvPeriodLow (v : Word) (s : State) : Result := .next { s with ay := s.ay.writeEnvPeriodLow v }

/-- Command of rule R157. -/
def execAyEnvPeriodHigh (v : Word) (s : State) : Result := .next { s with ay := s.ay.writeEnvPeriodHigh v }

/-- Command of rule R158. -/
def execAyEnvShape (v : Word) (s : State) : Result := .next { s with ay := s.ay.writeEnvShape v }

/-- Command of rule R159. -/
def execAyPort (p : AyPort) (v : Word) (s : State) : Result := .next { s with ay := s.ay.writePort p v }

end Sys2Proof.Machine
end

