-- ==== Sys2Proof/Machine/Control.lean ====
section
/-! DEFINITION. Jumps, subroutines, BRK, branches, the flag instructions and NOP (spec/45_cpu_control.md). -/

namespace Sys2Proof.Machine

/-- JMP (rules R323, R324). -/
def execJmp (j : JumpMode) (s : State) : Result := .next (setPc (jumpTarget j s) (advance 3 s))

/-- JSR (rule R325): pushes the address of its third byte. -/
def execJsr (target : Word) (s : State) : Result :=
  let s := advance 3 s
  .next (setPc target (push16 (s.cpu.pc - 1) s))

/-- RTS (rule R326): pulls an address and adds 1. -/
def execRts (s : State) : Result := .next (setPc (pull16 s + 1) (afterPull (afterPull (advance 1 s))))

/-- BRK (rule R328): skips its padding byte and takes the software trap through 0xFFFE. -/
def execBrk (s : State) : Result :=
  let s := advance 2 s
  .next (takeTrap s.cpu.pc 0xFFFE s)

/-- BCC (rule R330). -/
def execBcc (d : Byte) (s : State) : Result := .next (branchIf (!getFlag s.cpu.p .C) d s)

/-- BCS (rule R331). -/
def execBcs (d : Byte) (s : State) : Result := .next (branchIf (getFlag s.cpu.p .C) d s)

/-- BEQ (rule R332). -/
def execBeq (d : Byte) (s : State) : Result := .next (branchIf (getFlag s.cpu.p .Z) d s)

/-- BNE (rule R333). -/
def execBne (d : Byte) (s : State) : Result := .next (branchIf (!getFlag s.cpu.p .Z) d s)

/-- BMI (rule R334). -/
def execBmi (d : Byte) (s : State) : Result := .next (branchIf (getFlag s.cpu.p .N) d s)

/-- BPL (rule R335). -/
def execBpl (d : Byte) (s : State) : Result := .next (branchIf (!getFlag s.cpu.p .N) d s)

/-- CLC (rule R337). -/
def execClc (s : State) : Result := .next (setP (setFlag s.cpu.p .C false) (advance 1 s))

/-- SEC (rule R338). -/
def execSec (s : State) : Result := .next (setP (setFlag s.cpu.p .C true) (advance 1 s))

/-- NOP (rule R339). -/
def execNop (s : State) : Result := .next (advance 1 s)

end Sys2Proof.Machine
end

