-- ==== Sys2Proof/Machine/LoadStore.lean ====
section
/-! DEFINITION. Loads, stores, transfers and the stack instructions (spec/43_cpu_load_store.md). Every meaning first
moves `pc` past the instruction's bytes (rules R22, R120). -/

namespace Sys2Proof.Machine

/-- LDA (rule R270). -/
def execLda (m : Src) (s : State) : Result := .next (loadA (srcValue m s) (advance (srcLength m) s))

/-- LDX (rule R271). -/
def execLdx (m : Src) (s : State) : Result := .next (loadX (srcValue m s) (advance (srcLength m) s))

/-- LDY (rule R272). -/
def execLdy (m : Src) (s : State) : Result := .next (loadY (srcValue m s) (advance (srcLength m) s))

/-- A store of `v` at the effective address, with no read there and no flag (rules R273 to R275). -/
def storeByte (m : MemMode) (v : Byte) (s : State) : State :=
  memWrite (advance (memLength m) s) (effAddr m s) v

/-- STA (rule R273). -/
def execSta (m : MemMode) (s : State) : Result := .next (storeByte m s.cpu.a s)

/-- STX (rule R274). -/
def execStx (m : MemMode) (s : State) : Result := .next (storeByte m s.cpu.x s)

/-- STY (rule R275). -/
def execSty (m : MemMode) (s : State) : Result := .next (storeByte m s.cpu.y s)

/-- TAX (rule R276). -/
def execTax (s : State) : Result := .next (loadX s.cpu.a (advance 1 s))

/-- TAY (rule R277). -/
def execTay (s : State) : Result := .next (loadY s.cpu.a (advance 1 s))

/-- TXA (rule R278). -/
def execTxa (s : State) : Result := .next (loadA s.cpu.x (advance 1 s))

/-- TYA (rule R279). -/
def execTya (s : State) : Result := .next (loadA s.cpu.y (advance 1 s))

/-- PHA (rule R280). -/
def execPha (s : State) : Result := .next (push s.cpu.a (advance 1 s))

/-- PLA (rule R281). -/
def execPla (s : State) : Result := .next (loadA (pullByte s) (afterPull (advance 1 s)))

end Sys2Proof.Machine
end

