-- ==== Sys2Proof/Machine/Dispatch.lean ====
section
/-! DEFINITION. The meaning of every instruction of spec/opcode_table.json: one arm per constructor of Instr. -/

namespace Sys2Proof.Machine

def exec (i : Instr) (s : State) : Host.Outcome State Fault Refusal :=
  match i with
  | .brk => Sys2Proof.Machine.execBrk s
  | .ora m => Sys2Proof.Machine.execOra m s
  | .asl t => Sys2Proof.Machine.execAsl t s
  | .bpl d => Sys2Proof.Machine.execBpl d s
  | .clc => Sys2Proof.Machine.execClc s
  | .jsr w => Sys2Proof.Machine.execJsr w s
  | .and m => Sys2Proof.Machine.execAnd m s
  | .bit m => Sys2Proof.Machine.execBit m s
  | .rol t => Sys2Proof.Machine.execRol t s
  | .bmi d => Sys2Proof.Machine.execBmi d s
  | .sec => Sys2Proof.Machine.execSec s
  | .eor m => Sys2Proof.Machine.execEor m s
  | .lsr t => Sys2Proof.Machine.execLsr t s
  | .pha => Sys2Proof.Machine.execPha s
  | .jmp j => Sys2Proof.Machine.execJmp j s
  | .rts => Sys2Proof.Machine.execRts s
  | .adc m => Sys2Proof.Machine.execAdc m s
  | .ror t => Sys2Proof.Machine.execRor t s
  | .pla => Sys2Proof.Machine.execPla s
  | .sta m => Sys2Proof.Machine.execSta m s
  | .sty m => Sys2Proof.Machine.execSty m s
  | .stx m => Sys2Proof.Machine.execStx m s
  | .dey => Sys2Proof.Machine.execDey s
  | .txa => Sys2Proof.Machine.execTxa s
  | .bcc d => Sys2Proof.Machine.execBcc d s
  | .tya => Sys2Proof.Machine.execTya s
  | .ldy m => Sys2Proof.Machine.execLdy m s
  | .lda m => Sys2Proof.Machine.execLda m s
  | .ldx m => Sys2Proof.Machine.execLdx m s
  | .tay => Sys2Proof.Machine.execTay s
  | .tax => Sys2Proof.Machine.execTax s
  | .bcs d => Sys2Proof.Machine.execBcs d s
  | .cpy m => Sys2Proof.Machine.execCpy m s
  | .cmp m => Sys2Proof.Machine.execCmp m s
  | .dec m => Sys2Proof.Machine.execDec m s
  | .iny => Sys2Proof.Machine.execIny s
  | .dex => Sys2Proof.Machine.execDex s
  | .bne d => Sys2Proof.Machine.execBne d s
  | .cpx m => Sys2Proof.Machine.execCpx m s
  | .sbc m => Sys2Proof.Machine.execSbc m s
  | .inc m => Sys2Proof.Machine.execInc m s
  | .inx => Sys2Proof.Machine.execInx s
  | .nop => Sys2Proof.Machine.execNop s
  | .beq d => Sys2Proof.Machine.execBeq d s
  | .apuPulse1Control v => Sys2Proof.Machine.execApuPulse1Control v s
  | .apuPulse1Sweep v => Sys2Proof.Machine.execApuPulse1Sweep v s
  | .apuPulse1TimerLow v => Sys2Proof.Machine.execApuPulse1TimerLow v s
  | .apuPulse1Length v => Sys2Proof.Machine.execApuPulse1Length v s
  | .apuPulse2Control v => Sys2Proof.Machine.execApuPulse2Control v s
  | .apuPulse2Sweep v => Sys2Proof.Machine.execApuPulse2Sweep v s
  | .apuPulse2TimerLow v => Sys2Proof.Machine.execApuPulse2TimerLow v s
  | .apuPulse2Length v => Sys2Proof.Machine.execApuPulse2Length v s
  | .apuTriangleControl v => Sys2Proof.Machine.execApuTriangleControl v s
  | .apuTriangleTimerLow v => Sys2Proof.Machine.execApuTriangleTimerLow v s
  | .apuTriangleLength v => Sys2Proof.Machine.execApuTriangleLength v s
  | .apuNoiseControl v => Sys2Proof.Machine.execApuNoiseControl v s
  | .apuNoiseMode v => Sys2Proof.Machine.execApuNoiseMode v s
  | .apuNoiseLength v => Sys2Proof.Machine.execApuNoiseLength v s
  | .apuDmcControl v => Sys2Proof.Machine.execApuDmcControl v s
  | .apuDmcDelta v => Sys2Proof.Machine.execApuDmcDelta v s
  | .apuDmcAddress v => Sys2Proof.Machine.execApuDmcAddress v s
  | .apuDmcLength v => Sys2Proof.Machine.execApuDmcLength v s
  | .apuEnables v => Sys2Proof.Machine.execApuEnables v s
  | .apuFrameCounter v => Sys2Proof.Machine.execApuFrameCounter v s
  | .apuUnlisted r v => Sys2Proof.Machine.execApuUnlisted r v s
  | .bankSelect off v => Sys2Proof.Machine.execBankSelect off v s
  | .ayToneLow c v => Sys2Proof.Machine.execAyToneLow c v s
  | .ayToneHigh c v => Sys2Proof.Machine.execAyToneHigh c v s
  | .ayNoisePeriod v => Sys2Proof.Machine.execAyNoisePeriod v s
  | .ayMixer v => Sys2Proof.Machine.execAyMixer v s
  | .ayAmplitude c v => Sys2Proof.Machine.execAyAmplitude c v s
  | .ayEnvPeriodLow v => Sys2Proof.Machine.execAyEnvPeriodLow v s
  | .ayEnvPeriodHigh v => Sys2Proof.Machine.execAyEnvPeriodHigh v s
  | .ayEnvShape v => Sys2Proof.Machine.execAyEnvShape v s
  | .ayPort p v => Sys2Proof.Machine.execAyPort p v s

end Sys2Proof.Machine
end

