-- ==== Sys2Proof/Machine/HostOps.lean ====
section
/-! DEFINITION. How the agents move: fetching and running one instruction (spec/45_cpu_control.md rule R340), the
bounded execution of `call` and `resume` (rules R343, R344), the host's operations (spec/46_host_interface.md), the
NSF sequences and the VGM commands that touch the block. -/

namespace Sys2Proof.Machine

/-! ## One instruction -/

/-- The opcode byte and the two bytes after it: as many as the longest instruction has (rules R97, R110). Reads change
nothing, so reading a byte the instruction does not use is not observable. -/
def fetchBytes (s : State) : List Byte :=
  [memRead s s.cpu.pc, memRead s (s.cpu.pc + 1), memRead s (s.cpu.pc + 2)]

/-- `step()` of the CPU (rule R340): the instruction at `pc`, or `CpuError` with nothing changed (rule R380). Three bytes
are always enough, so the only decode error here is an undefined opcode. -/
def cpuStep (s : State) : Result :=
  match decode (fetchBytes s) with
  | .ok (i, _) => exec i s
  | .error _ => .fault (.cpuError s.cpu.pc)

/-! ## What the host records -/

/-- The host sees a result (rule R350). -/
def emit (r : HostResult) (s : State) : State := { s with host := { s.host with results := r :: s.host.results } }

/-- Operations that come before the rest of the queue. -/
def prepend (ops : List HostOp) (s : State) : State := { s with host := { s.host with queue := ops ++ s.host.queue } }

/-- The host ends the run: it asks for nothing more (rule R366). -/
def hostStop (s : State) : State := { s with host := { s.host with queue := [], run := none, stopped := true } }

/-- Apply `f` to the next state of a result, if there is one. -/
def mapNext (f : State → State) (r : Result) : Result :=
  match r with
  | .next s => .next (f s)
  | .fault e => .fault e
  | .refused e => .refused e

/-! ## Bounded execution -/

/-- `call` or `resume` returns `status` to the host (rule R345), which goes on as its purpose says: a failed boot or PLAY
ends the run (rules R361, R362, R366). -/
def finishRun (status : Int) (r : Run) (s : State) : State :=
  let s := emit (.status status) { s with host := { s.host with run := none } }
  match r.purpose with
  | .plain => s
  | .boot =>
    let s := emit (.booted (status == 1)) s
    if status == 1 then s else hostStop s
  | .play wait => if status == 1 then prepend [.wait .apu wait] s else hostStop s

/-- One turn of `resume`'s loop (rule R344): the budget is tested first, then the stop marker, then one instruction
runs and costs one unit of the budget (rule R346). -/
def runStep (r : Run) (s : State) : Result :=
  if r.budget = some 0 then .next (finishRun 0 r s)
  else if s.cpu.sp = s.cpu.stopSp then .next (finishRun 1 r s)
  else
    match cpuStep s with
    | .next t => .next { t with host := { t.host with run := some { r with budget := r.budget.map (· - 1) } } }
    | .fault _ => .next (finishRun (-1) r s)
    | .refused e => .refused e

/-- Begin `resume(n)` (rule R344). -/
def startRun (budget : Option Nat) (purpose : RunPurpose) (s : State) : State :=
  { s with host := { s.host with run := some { budget := budget, purpose := purpose } } }

/-! ## Resets of the whole block and of its parts -/

/-- `ApuReset()` (rule R218). -/
def resetApu (s : State) : State := { s with apu := s.apu.doReset }

/-- `AyReset()` (rule R179). -/
def resetAy (s : State) : State := { s with ay := s.ay.doReset }

/-- The CPU reset values (rule R27); the same after every reset of a run (U2). -/
def resetCpu (s : State) : State := { s with cpu := Cpu.reset }

/-- Bus `reset()` (rule R59). -/
def resetBus (s : State) : State := { s with bus := s.bus.doReset }

/-- Bus `power()` (rule R59). -/
def powerBus (s : State) : State := { s with bus := s.bus.doPower }

/-- `reset()` of the whole block (rules R351, R410). -/
def resetBlock (s : State) : State := resetBus (resetCpu (resetAy (resetApu s)))

/-- `power()` of the whole block (rule R351): as `reset()`, with the bus `power()` column. -/
def powerBlock (s : State) : State := powerBus (resetCpu (resetAy (resetApu s)))

/-! ## Register commands, samples, NSF and VGM -/

/-- A register command of the host (rules R354, R355, R357): the instruction it decodes to, and otherwise a bus write to
an address that is no register (rule R85) or a discarded AY write (rule R152). -/
def hostCommand (c : Command) (s : State) : Result :=
  match decodeCommand c with
  | some i => exec i s
  | none =>
    match c with
    | .bus addr v => .next (memWrite s addr v)
    | .ay _ _ => .next s

/-- `MemWrite(addr, 1, v)` by the host, which sees the Boolean (rule R355). -/
def hostBusWrite (addr : Word) (v : Byte) (s : State) : Result :=
  mapNext (emit (.wrote (writeAccepted addr))) (hostCommand (.bus addr v) s)

/-- `ApuSample()` (rule R230), whose word the host sees. -/
def takeApuSample (s : State) : Result :=
  .next (emit (.apuSample (s.apu.sampleResult s.bus)) { s with apu := s.apu.sample s.bus })

/-- `AySample()` (rule R170), whose word the host sees; refused at a sample rate of 0 (U19). -/
def takeAySample (s : State) : Result :=
  if s.ay.sampleRateHz = 0 then .refused .aySampleRateZero
  else .next (emit (.aySample s.ay.sampleResult) { s with ay := s.ay.sample })

/-- One sample of the chip the host holds (rule R359). -/
def takeSample (chip : Chip) (s : State) : Result :=
  match chip with
  | .apu => takeApuSample s
  | .ay => takeAySample s

/-- The operations of the NSF boot (rule R361), steps 1 to 8. A track number of 256 or more reaches `a` as its low 8 bits
(DESIGN CHOICE, notes/assumptions/28.md). -/
def nsfBootOps (h : NsfHeader) (track : Nat) : List HostOp :=
  let banks := h.bankSwitch.toList
  let bankWrites :=
    if banks.all (· == 0) then []
    else banks.zipIdx.map fun (v, i) => HostOp.busWrite (BitVec.ofNat 16 (0x5FF8 + i)) v
  let ramWrites := (List.range 0x0800).map fun i => HostOp.busWrite (BitVec.ofNat 16 i) 0
  let apuWrites := (List.range 0x14).map fun i => HostOp.busWrite (BitVec.ofNat 16 (0x4000 + i)) 0
  let a := if track < h.songIndex then track else 0
  [.apuReset] ++ bankWrites ++ ramWrites ++ apuWrites ++
    [.busWrite 0x4015 0x00, .busWrite 0x4015 0x0F, .busWrite 0x4017 0x40,
     .setA (BitVec.ofNat 8 a), .setX 0, .setSp 0xEF, .call h.initAddress none .boot]

/-- `waitSamples` of a PLAY tick (rule R362). -/
def waitSamples (h : NsfHeader) : Nat := sampleRateHz * h.ntscPlaySpeed / 1000000

/-- The operations of one PLAY tick (rule R362). -/
def nsfPlayOps (h : NsfHeader) : List HostOp := [.call h.playAddress (some playBudget) (.play (waitSamples h))]

/-- A 32-bit little-endian length field (rule R146). -/
def length32 (b0 b1 b2 b3 : Byte) : Nat := (b3 ++ b2 ++ b1 ++ b0 : BitVec 32).toNat

/-- The data block command after its bytes `67 66`: a type byte, a 32-bit length and that many bytes, which become a block
whatever the type (rules R146, R353); and the rest of the stream. The spec leaves the base to the host (N15): all blocks of
one stream get the same one (DESIGN CHOICE, notes/assumptions/27.md). -/
def vgmDataBlock (base : Word) (bytes : List Byte) : Except Refusal (List HostOp × List Byte) :=
  match bytes with
  | _ :: b0 :: b1 :: b2 :: b3 :: data =>
    if length32 b0 b1 b2 b3 ≤ data.length then
      .ok ([.setBlock base (data.take (length32 b0 b1 b2 b3))], data.drop (length32 b0 b1 b2 b3))
    else .error (.vgmTruncated 0x67)
  | _ => .error (.vgmTruncated 0x67)

/-- The first command of a VGM stream that touches the block, as the operations it stands for, and the rest of the
stream (rules R146, R358, R363). Command 66 always ends the run and drops what follows it: rule R366 adds "with no loop
left" and the spec gives no loop, so a looping stream is handed over unrolled (DESIGN CHOICE, notes/assumptions/25.md). A byte 67 not followed by 66 is refused: the rules give
only the form `67 66 tt ...` (DESIGN CHOICE, notes/assumptions/26.md). -/
def vgmCommand (chip : Chip) (base : Word) (bytes : List Byte) : Except Refusal (List HostOp × List Byte) :=
  match bytes with
  | [] => .ok ([], [])
  | op :: rest =>
    if op = 0xB4 then
      match rest with
      | aa :: dd :: rest => .ok ([.vgmB4 aa dd], rest)
      | _ => .error (.vgmTruncated op)
    else if op = 0xA0 then
      match rest with
      | aa :: dd :: rest => .ok ([.vgmA0 aa dd], rest)
      | _ => .error (.vgmTruncated op)
    else if op = 0x61 then
      match rest with
      | lo :: hi :: rest => .ok ([.wait chip ((wordOf lo hi).toNat + 1)], rest)
      | _ => .error (.vgmTruncated op)
    else if op = 0x62 then .ok ([.wait chip 735], rest)
    else if op = 0x63 then .ok ([.wait chip 882], rest)
    else if op &&& 0xF0 = 0x70 then .ok ([.wait chip ((op &&& 0x0F).toNat + 1)], rest)
    else if op &&& 0xF0 = 0x80 then .ok ([.wait chip (op &&& 0x0F).toNat], rest)
    else if op = 0x66 then .ok ([.stop], [])
    else if op = 0x67 then
      match rest with
      | [] => .error (.vgmTruncated op)
      | marker :: rest => if marker = 0x66 then vgmDataBlock base rest else .error (.vgmBlockMarker marker)
    else .error (.vgmCommandOutOfScope op)

/-- One command of a VGM stream, and then the rest of it (rule R363). A stream whose bytes run out after a whole command,
without command 66, just ends: the host goes on with its queue, and its run is not ended (DESIGN CHOICE,
notes/assumptions/24.md). -/
def stepVgm (chip : Chip) (base : Word) (bytes : List Byte) (s : State) : Result :=
  match vgmCommand chip base bytes with
  | .ok (ops, []) => .next (prepend ops s)
  | .ok (ops, rest) => .next (prepend (ops ++ [.vgm chip base rest]) s)
  | .error e => .refused e

/-! ## The host's operations -/

/-- The host assigns CPU registers between instructions (rule R356). -/
def setCpu (f : Cpu → Cpu) (s : State) : Result := .next { s with cpu := f s.cpu }

/-- One operation of the host (rule R350), on the state whose queue no longer holds it. -/
def performOp (op : HostOp) (s : State) : Result :=
  match op with
  | .reset => .next (resetBlock s)
  | .power => .next (powerBlock s)
  | .apuReset => .next (resetApu s)
  | .apuPower => .next (resetApu s)
  | .ayReset => .next (resetAy s)
  | .cpuReset => .next (resetCpu s)
  | .cpuPower => .next (resetCpu s)
  | .busReset => .next (resetBus s)
  | .busPower => .next (powerBus s)
  | .busWrite addr v => hostBusWrite addr v s
  | .busRead addr => .next (emit (.byte (memRead s addr)) s)
  | .apuWrite addr v =>
    if 0x4000 ≤ addr.toNat ∧ addr.toNat ≤ 0x401F then hostCommand (.bus addr v) s
    else .refused (.apuWriteOutsideWindow addr)
  | .apuRead addr => .next (emit (.byte (apuRead addr)) s)
  | .vgmB4 aa dd => hostBusWrite (0x4000 + aa.setWidth 16) dd s
  | .vgmA0 aa dd => hostCommand (.ay aa.toNat (dd.setWidth 16)) s
  | .setA v => setCpu (fun c => { c with a := v }) s
  | .setX v => setCpu (fun c => { c with x := v }) s
  | .setY v => setCpu (fun c => { c with y := v }) s
  | .setSp v => setCpu (fun c => { c with sp := v }) s
  | .setP v => setCpu (fun c => { c with p := v }) s
  | .setPc v => setCpu (fun c => { c with pc := v }) s
  | .call addr budget purpose => .next (startRun budget purpose (enterCall addr s))
  | .resume budget => .next (startRun budget .plain s)
  | .cpuStep =>
    match cpuStep s with
    | .next t => .next (emit .stepOk t)
    | .fault (.cpuError pc) => .next (emit (.stepError pc) s)
    | .refused e => .refused e
  | .setBlock base bytes => .next { s with bus := s.bus.setBlock base bytes }
  | .apuSample => takeApuSample s
  | .apuSetVolume percent => .next { s with apu := s.apu.setVolume percent }
  | .ayWrite reg v => hostCommand (.ay reg v) s
  | .ayRead reg => .next (emit (.ayValue (s.ay.read reg)) s)
  | .aySample => takeAySample s
  | .aySetType chipType flags => .next { s with ay := s.ay.setType chipType flags }
  | .aySetFrequency hz => .next { s with ay := s.ay.setFrequency hz }
  | .aySetSampleFrequency hz => .next { s with ay := s.ay.setSampleFrequency hz }
  | .aySetVolume percent => .next { s with ay := s.ay.setVolume percent }
  | .wait _ 0 => .next s
  | .wait chip (n + 1) => mapNext (prepend [.wait chip n]) (takeSample chip s)
  | .nsfBoot h track => .next (prepend (nsfBootOps h track) s)
  | .nsfPlay h => .next (prepend (nsfPlayOps h) s)
  | .vgm chip base bytes => stepVgm chip base bytes s
  | .stop => .next (hostStop s)

/-- One step of the machine (rules R7, R420). A `call` or `resume` in flight goes on; else the host performs its next
operation; a host with nothing queued single-steps the CPU by `step()`, unless it has ended the run: then nothing
happens (notes/assumptions/3.md). -/
def machineStep (s : State) : Result :=
  match s.host.run with
  | some r => runStep r s
  | none =>
    match s.host.queue with
    | op :: rest => performOp op { s with host := { s.host with queue := rest } }
    | [] => if s.host.stopped then .next s else cpuStep s

end Sys2Proof.Machine
end

