-- ==== Sys2Proof/Machine/Step.lean ====
section
/-! DEFINITION. One step of the machine, and the placing of an instruction where the next step fetches it. -/

namespace Sys2Proof

/-- One step of the machine: one transition of the CPU, the APU, the AY or the host (rules R7, R420). -/
def Machine.step (s : Machine.State) : Host.Outcome Machine.State Machine.Fault Machine.Refusal :=
  Machine.machineStep s

/-- `s` with the instruction whose bits are `w` placed where the next step fetches (notes/assumptions/20.md). -/
def Machine.State.withFetchWord (s : Machine.State) (nbits w : Nat) : Machine.State :=
  Machine.placeFetchWord nbits w s

end Sys2Proof
end

