-- ==== Sys2Proof/Safety.lean ====
section
/-! DEFINITION. The terms in which the claims about the machine are made: what an instruction leaves alone, what a
store does to the rest of the machine (spec/20_memory.md rule R85), the flags an instruction writes
(spec/10_state.md rule R23), the undefined opcodes (spec/30_encoding.md rule R119), the invariants of the block
(rules R31, R37, R58, R173, R252), and what a safe step and a safe run are. -/

namespace Sys2Proof.Machine

/-! ## Frames -/

/-- Every bus address reads the same in `s` and `t`. -/
def SameMemory (s t : State) : Prop := ∀ addr : Word, memRead t addr = memRead s addr

/-- From `s` to `t` the CPU's registers become `c` and nothing else changes. -/
def OnlyCpu (s t : State) (c : Cpu) : Prop :=
  t.cpu = c ∧ t.bus = s.bus ∧ t.apu = s.apu ∧ t.ay = s.ay ∧ t.host = s.host ∧ SameMemory s t

/-- From `s` to `t` the APU becomes `a` and nothing else changes. -/
def OnlyApu (s t : State) (a : Apu) : Prop :=
  t.apu = a ∧ t.cpu = s.cpu ∧ t.bus = s.bus ∧ t.ay = s.ay ∧ t.host = s.host ∧ SameMemory s t

/-- From `s` to `t` the AY becomes `a` and nothing else changes. -/
def OnlyAy (s t : State) (a : Ay) : Prop :=
  t.ay = a ∧ t.cpu = s.cpu ∧ t.bus = s.bus ∧ t.apu = s.apu ∧ t.host = s.host ∧ SameMemory s t

/-- Two addresses of the RAM range that select one RAM byte (rule R72). -/
def SameRamByte (a b : Word) : Prop :=
  a.toNat ≤ 0x1FFF ∧ b.toNat ≤ 0x1FFF ∧ a.toNat % 0x0800 = b.toNat % 0x0800

/-- The bank registers, the banking switch and the data blocks are the same in `s` and `t` (rules R57, R58). -/
def SameCartridge (s t : State) : Prop :=
  t.bus.bank = s.bus.bank ∧ t.bus.bankingEnabled = s.bus.bankingEnabled ∧ t.bus.blocks = s.bus.blocks ∧
    t.bus.mapperBase = s.bus.mapperBase

/-- What one bus write of `v` at `addr` does to bus and APU, and to nothing else (the rows of rule R85). In the RAM
rows the byte reads back at every mirror; a bank register write can change only what the bank range and the banked ROM
window read. -/
def Stored (addr : Word) (v : Byte) (s t : State) : Prop :=
  if addr.toNat ≤ 0x1FFF then
    (∀ a, SameRamByte a addr → memRead t a = v) ∧ (∀ a, ¬ SameRamByte a addr → memRead t a = memRead s a) ∧
      SameCartridge s t ∧ t.apu = s.apu
  else if 0x4000 ≤ addr.toNat ∧ addr.toNat ≤ 0x401F then
    t.apu = s.apu.write (addr.setWidth 5) v ∧ t.bus = s.bus ∧ SameMemory s t
  else if 0x5000 ≤ addr.toNat ∧ addr.toNat ≤ 0x5FFF then
    (∀ i, t.bus.bankReg i = if i = addr.setWidth 3 then v else s.bus.bankReg i) ∧ t.bus.bankingEnabled = true ∧
      t.bus.blocks = s.bus.blocks ∧ t.bus.mapperBase = s.bus.mapperBase ∧ t.bus.mem = s.bus.mem ∧ t.apu = s.apu ∧
      (∀ a : Word, 0x5000 ≤ a.toNat → a.toNat ≤ 0x5FFF →
        memRead t a = if a.toNat % 8 = addr.toNat % 8 then v else memRead s a) ∧
      (∀ a : Word, ¬ (0x5000 ≤ a.toNat ∧ a.toNat ≤ 0x5FFF) → ¬ (0x8000 ≤ a.toNat ∧ a.toNat ≤ 0xFFF9) →
        memRead t a = memRead s a)
  else if 0x6000 ≤ addr.toNat ∧ addr.toNat ≤ 0x7FFF then
    memRead t addr = v ∧ (∀ a, a ≠ addr → memRead t a = memRead s a) ∧ SameCartridge s t ∧ t.apu = s.apu
  else t.bus = s.bus ∧ t.apu = s.apu ∧ SameMemory s t

/-- From `s` to `t` the CPU's registers become `c`, `v` is stored at `addr`, and nothing else changes. -/
def CpuAndStore (s t : State) (c : Cpu) (addr : Word) (v : Byte) : Prop :=
  t.cpu = c ∧ Stored addr v s t ∧ t.ay = s.ay ∧ t.host = s.host

/-- From `s` to `t` memory changes at most in the RAM bytes that the stack pointers `sps` select, and bus, APU, AY and
host not at all otherwise. -/
def OnlyStack (sps : List Byte) (s t : State) : Prop :=
  (∀ a, (∀ sp ∈ sps, ¬ SameRamByte a (stackAddr sp)) → memRead t a = memRead s a) ∧ SameCartridge s t ∧
    t.apu = s.apu ∧ t.ay = s.ay ∧ t.host = s.host

/-! ## Flags -/

/-- The flags outside `fs` are the same in the flags bytes `p` and `q`. -/
def SameFlagsBut (fs : List Flag) (p q : Byte) : Prop := ∀ f, f ∉ fs → getFlag q f = getFlag p f

/-- Z and N of `q` describe the byte `v` (rule R11). -/
def ShowsNZ (v q : Byte) : Prop := getFlag q .Z = decide (v.toNat = 0) ∧ getFlag q .N = decide (0x80 ≤ v.toNat)

/-- `q` is `p` after `SetNZ(v)` (rule R11). -/
def AfterSetNZ (v p q : Byte) : Prop := ShowsNZ v q ∧ SameFlagsBut [.Z, .N] p q

/-- `q` is `p` after `C` is set to `c` and then `SetNZ(v)`. -/
def AfterSetCNZ (c : Bool) (v p q : Byte) : Prop :=
  getFlag q .C = c ∧ ShowsNZ v q ∧ SameFlagsBut [.C, .Z, .N] p q

/-! ## The undefined opcodes -/

/-- The 117 undefined opcode bytes as rule R119 lists them. -/
def undefinedOpcodes : List Byte :=
  [0x02, 0x03, 0x04, 0x07, 0x08, 0x0B, 0x0C, 0x0F, 0x12, 0x13, 0x14, 0x17, 0x1A, 0x1B, 0x1C, 0x1F] ++
  [0x22, 0x23, 0x27, 0x28, 0x2B, 0x2F, 0x32, 0x33, 0x34, 0x37, 0x3A, 0x3B, 0x3C, 0x3F] ++
  [0x40, 0x42, 0x43, 0x44, 0x47, 0x4B, 0x4F, 0x50, 0x52, 0x53, 0x54, 0x57, 0x58, 0x5A, 0x5B, 0x5C, 0x5F] ++
  [0x62, 0x63, 0x64, 0x67, 0x6B, 0x6F, 0x70, 0x72, 0x73, 0x74, 0x77, 0x78, 0x7A, 0x7B, 0x7C, 0x7F] ++
  [0x80, 0x82, 0x83, 0x87, 0x89, 0x8B, 0x8F, 0x92, 0x93, 0x97, 0x9A, 0x9B, 0x9C, 0x9E, 0x9F] ++
  [0xA3, 0xA7, 0xAB, 0xAF, 0xB2, 0xB3, 0xB7, 0xB8, 0xBA, 0xBB, 0xBF] ++
  [0xC2, 0xC3, 0xC7, 0xCB, 0xCF, 0xD2, 0xD3, 0xD4, 0xD7, 0xD8, 0xDA, 0xDB, 0xDC, 0xDF] ++
  [0xE2, 0xE3, 0xE7, 0xEB, 0xEF, 0xF2, 0xF3, 0xF4, 0xF7, 0xF8, 0xFA, 0xFB, 0xFC, 0xFF]

/-! ## The host -/

/-- The host asks for nothing and has not ended the run: the next step single-steps the CPU
(notes/assumptions/3.md). -/
def State.singleStepping (s : State) : Prop := s.host.run = none ∧ s.host.queue = [] ∧ s.host.stopped = false

/-- The host's next operation is `op`, and then those of `rest`. -/
def State.performing (s : State) (op : HostOp) (rest : List HostOp) : Prop :=
  s.host.run = none ∧ s.host.queue = op :: rest

/-- The state with the host's queue replaced. -/
def State.withQueue (s : State) (ops : List HostOp) : State := { s with host := { s.host with queue := ops } }

/-- What the host holds after a `call` or `resume` has returned `status` (rule R345), by what the run was for. A plain run
only shows the status. INIT's shows whether the boot succeeded, and a failed boot ends the run (rule R361). After PLAY the
host takes its samples, or ends the run (rules R362, R366). That the end of the run empties the queue is
notes/assumptions/19.md. -/
def HostState.afterRun (h : HostState) (purpose : RunPurpose) (status : Int) : HostState :=
  let seen := HostResult.status status :: h.results
  match purpose with
  | .plain => { h with run := none, results := seen }
  | .boot =>
    if status = 1 then { h with run := none, results := .booted true :: seen }
    else { queue := [], run := none, stopped := true, results := .booted false :: seen }
  | .play wait =>
    if status = 1 then { h with run := none, queue := .wait .apu wait :: h.queue, results := seen }
    else { queue := [], run := none, stopped := true, results := seen }

/-! ## Invariants -/

/-- The stored memory is in its canonical form (notes/assumptions/2.md). -/
def State.memoryOk (s : State) : Prop := Memory.wf s.bus.mem = true

/-- At most four data blocks, and the mapper's base is the least page base among them (rule R58). -/
def State.blocksOk (s : State) : Prop :=
  s.bus.blocks.length ≤ 4 ∧
    (∀ b ∈ s.bus.blocks, s.bus.mapperBase.toNat ≤ b.base.toNat / 0x1000 * 0x1000) ∧
    (s.bus.blocks ≠ [] → ∃ b ∈ s.bus.blocks, s.bus.mapperBase.toNat = b.base.toNat / 0x1000 * 0x1000)

/-- Both noise shift registers are never zero (rules R37 (c), R173). -/
def State.noiseOk (s : State) : Prop := s.apu.noiseLfsr ≠ 0 ∧ s.ay.noiseLfsr ≠ 0

/-- The phase of the frame sequencer stays below the length of its mode's sequence (rule R37 (d)). -/
def Apu.framesOk (a : Apu) : Prop := a.frames < if (a.reg 0x17).getLsbD 7 then 5 else 4

/-- A disabled channel has no length left (rules R37 (e), R220). -/
def Apu.lengthsOk (a : Apu) : Prop :=
  ∀ k : ChannelId, k ≠ .dmc → a.enabled k = false → (a.channel k).lenCounter = 0

/-- A playing DMC has bytes left to fetch (rule R252). -/
def Apu.dmcOk (a : Apu) : Prop := a.dmcActive = true → 1 ≤ a.dmcLen

/-- The ranges of the numbers in the channel records (rule R31). -/
def Apu.rangesOk (a : Apu) : Prop :=
  (∀ k : ChannelId, (a.channel k).lenCounter ≤ 254 ∧ (a.channel k).output ≤ 0xFFFF ∧ (a.channel k).sweepCounter ≤ 7) ∧
    a.pulse1.sequencer ≤ 7 ∧ a.pulse2.sequencer ≤ 7 ∧ a.triangle.sequencer ≤ 31 ∧ a.dmc.sequencer ≤ 8 ∧
    a.triangle.linearCounter ≤ 127 ∧ a.dmcLen ≤ 4081 ∧ a.dmcDelta ≤ 127

/-- The invariants of the APU together. -/
def Apu.ok (a : Apu) : Prop := a.framesOk ∧ a.lengthsOk ∧ a.dmcOk ∧ a.rangesOk

/-! ## Safe runs -/

/-- A step is safe when it answers a next state: no `CpuError`, no refusal. -/
def State.safe (s : State) : Prop := ∃ t, step s = .next t

/-- A run of `n` steps is safe when each of them is. -/
def State.safeFor : Nat → State → Prop
  | 0, _ => True
  | n + 1, s => ∃ t, step s = .next t ∧ State.safeFor n t

end Sys2Proof.Machine
end

