-- ==== Sys2Proof/Certificates/Slice0/Obligations.lean ====
section
/-! DEFINITION. The statements for the provers, in the order of OBLIGATIONS.json: encoding, the step, the bus, the
CPU's instructions, the register commands, the samples of the two chips, the host's operations and the invariants. -/

section Statements

open Sys2Proof Sys2Proof.Machine

/-! ## Encoding -/

/-- Decoding an encoded well-formed CPU instruction gives it back, with the bytes after it (rules R110, R112, R115,
R118). -/
def Obligations.DecodeEncode : Prop :=
  ∀ (i : Instr) (rest : List Byte), i.wf = true → i.isCpu = true → decode (encode i ++ rest) = .ok (i, rest)

/-- Whatever bytes decode, they are the encoding of a well-formed CPU instruction followed by the rest (rules R110 to
R112, R118). -/
def Obligations.EncodeDecode : Prop :=
  ∀ (bytes : List Byte) (i : Instr) (rest : List Byte), decode bytes = .ok (i, rest) →
    i.wf = true ∧ i.isCpu = true ∧ bytes = encode i ++ rest

/-- Register commands and the instructions that are no CPU instructions stand for each other one to one (rules R134,
R142, R145). -/
def Obligations.CommandRoundTrip : Prop :=
  (∀ (c : Command) (i : Instr), decodeCommand c = some i → i.isCpu = false ∧ encodeCommand i = some c) ∧
    ∀ i : Instr, i.isCpu = false → ∃ c, encodeCommand i = some c ∧ decodeCommand c = some i

/-- Words of five formats, written out from the table of rule R118 and the examples of rule R113. -/
def Obligations.DecodeWords : Prop :=
  decode [0x60] = .ok (.rts, []) ∧ decode [0x0A] = .ok (.asl .acc, []) ∧
    decode [0xA9, 0x10] = .ok (.lda (.imm 0x10), []) ∧ decode [0xB6, 0x10] = .ok (.ldx (.mem (.zpy 0x10)), []) ∧
    decode [0xD0, 0xFB] = .ok (.bne 0xFB, []) ∧ decode [0x8D, 0x15, 0x40] = .ok (.sta (.abs 0x4015), []) ∧
    decode [0x6C, 0xFF, 0x00] = .ok (.jmp (.ind 0x00FF), []) ∧
    decode [0xB1, 0x10] = .ok (.lda (.mem (.indy 0x10)), []) ∧
    decodeCommand (.bus 0x4003 0x08) = some (.apuPulse1Length 0x08) ∧
    decodeCommand (.bus 0x5FF8 0x05) = some (.bankSelect 0xFF8 0x05) ∧
    decodeCommand (.ay 8 0x0F) = some (.ayAmplitude .A 0x0F)

/-- The opcode bytes that decode to nothing are the 117 that rule R119 lists, and no others; a single-stepped CPU at
one of them faults with its address (that a host which asks for nothing single-steps is the model's choice,
notes/assumptions/3.md, and the fault notes/assumptions/4.md). -/
def Obligations.UndefinedOpcodes : Prop :=
  undefinedOpcodes.length = 117 ∧
    (∀ (op b c : Byte) (rest : List Byte), op ∈ undefinedOpcodes →
      decode (op :: b :: c :: rest) = .error (.undefinedOpcode op)) ∧
    (∀ (op b c : Byte) (rest : List Byte), op ∉ undefinedOpcodes →
      ∃ i rest', decode (op :: b :: c :: rest) = .ok (i, rest')) ∧
    ∀ s : State, s.singleStepping → memRead s s.cpu.pc ∈ undefinedOpcodes → step s = .fault (.cpuError s.cpu.pc)

/-! ## The step -/

/-- A step runs the instruction that the bytes at `pc` decode to (rules R97, R340): alone when the host single-steps,
which it does while it asks for nothing (the model's choice, notes/assumptions/3.md), and at the cost of one unit of the
budget inside a `call` (rules R344, R346). -/
def Obligations.StepRunsDecoded : Prop :=
  ∀ (s : State) (i : Instr) (rest : List Byte),
    decode [memRead s s.cpu.pc, memRead s (s.cpu.pc + 1), memRead s (s.cpu.pc + 2)] = .ok (i, rest) →
      (s.singleStepping → step s = exec i s) ∧
      ∀ (r : Run) (t : State), s.host.run = some r → r.budget ≠ some 0 → s.cpu.sp ≠ s.cpu.stopSp → exec i s = .next t →
        step s =
          .next { t with host := { s.host with run := some { r with budget := r.budget.map fun n => n - 1 } } }

/-- `CpuError` is precise and is reported to the host alone: a queued `step()` returns it and a run returns -1, with CPU,
bus, APU and AY unchanged. The host then goes on as the run's purpose says: a failed NSF boot or PLAY ends the run (rules
R340, R344, R361, R362, R366, R380; that the queue is then dropped is notes/assumptions/19.md). -/
def Obligations.CpuErrorIsPrecise : Prop :=
  ∀ s : State, memRead s s.cpu.pc ∈ undefinedOpcodes →
    (∀ rest, s.performing .cpuStep rest →
      step s = .next { s with host := { s.host with
        queue := rest
        results := .stepError s.cpu.pc :: s.host.results } }) ∧
    ∀ r : Run, s.host.run = some r → r.budget ≠ some 0 → s.cpu.sp ≠ s.cpu.stopSp →
      step s = .next { s with host := s.host.afterRun r.purpose (-1) }

/-! ## The bus -/

/-- What one bus read gives, by the ranges of rule R80; the host's read sees that byte and changes nothing else (rule
R355). -/
def Obligations.BusRead : Prop :=
  ∀ (s : State) (addr : Word),
    memRead s addr =
      (if addr.toNat ≤ 0x1FFF then Memory.get s.bus.mem (addr.toNat % 0x0800)
      else if 0x4000 ≤ addr.toNat ∧ addr.toNat ≤ 0x401F then 0
      else if 0x5000 ≤ addr.toNat ∧ addr.toNat ≤ 0x5FFF then s.bus.bankReg (addr.setWidth 3)
      else if 0x6000 ≤ addr.toNat ∧ addr.toNat ≤ 0x7FFF then Memory.get s.bus.mem addr.toNat
      else if 0x8000 ≤ addr.toNat ∧ addr.toNat ≤ 0xFFF9 then
        romLookup s.bus.blocks (if s.bus.bankingEnabled then s.bus.mapper031 addr else addr.toNat)
      else if 0xFFFA ≤ addr.toNat then romLookup s.bus.blocks addr.toNat
      else 0xFF) ∧
    ∀ rest, s.performing (.busRead addr) rest →
      step s = .next { s with host := { s.host with
        queue := rest
        results := .byte (memRead s addr) :: s.host.results } }

/-- What one bus write does, by the ranges of rule R85, and the Boolean the host sees. RAM is mirrored every 0x0800:
two addresses of 0x0000 to 0x1FFF that agree in the low 11 bits are one byte, for reads and writes alike (rule R72). -/
def Obligations.BusWrite : Prop :=
  (∀ (s : State) (addr : Word) (v : Byte), s.memoryOk →
    CpuAndStore s (memWrite s addr v) s.cpu addr v ∧
    (writeAccepted addr = true ↔ addr.toNat ≤ 0x1FFF ∨ (0x4000 ≤ addr.toNat ∧ addr.toNat ≤ 0x401F) ∨
      (0x5000 ≤ addr.toNat ∧ addr.toNat ≤ 0x7FFF)) ∧
    ∀ rest, s.performing (.busWrite addr v) rest →
      step s = .next { memWrite s addr v with host := { s.host with
        queue := rest
        results := .wrote (writeAccepted addr) :: s.host.results } }) ∧
  ∀ (s : State) (a b : Word) (v : Byte), SameRamByte a b →
    memRead s a = memRead s b ∧ memWrite s a v = memWrite s b v

/-- The lookup scans the blocks in registration order: the first that contains the number wins, and 0xFF if none does
(rule R93). -/
def Obligations.RomLookupFirstBlock : Prop :=
  (∀ (before after : List Block) (b : Block) (n : Nat),
    (∀ c ∈ before, ¬ (c.base.toNat ≤ n ∧ n < c.base.toNat + c.bytes.length)) →
    ∀ h : b.base.toNat ≤ n ∧ n < b.base.toNat + b.bytes.length,
      romLookup (before ++ b :: after) n = b.bytes[n - b.base.toNat]'(by omega)) ∧
  ∀ (blocks : List Block) (n : Nat),
    (∀ c ∈ blocks, ¬ (c.base.toNat ≤ n ∧ n < c.base.toNat + c.bytes.length)) → romLookup blocks n = 0xFF

/-- A write of `v` to the bank register of window `w` makes the window show page `v` of the data, at once and without
truncation, and once banking is on it leaves every other window as it was; the vectors are never banked (rules R79,
R88, R91). -/
def Obligations.BankWriteRemapsOneWindow : Prop :=
  ∀ (s : State) (w : BitVec 3) (v : Byte) (off : BitVec 12),
    let at_ (w : BitVec 3) : Word := BitVec.ofNat 16 (0x8000 + w.toNat * 0x1000 + off.toNat)
    let t := memWrite s (BitVec.ofNat 16 (0x5FF8 + w.toNat)) v
    ((at_ w).toNat ≤ 0xFFF9 →
      memRead t (at_ w) = romLookup s.bus.blocks (s.bus.mapperBase.toNat + v.toNat * 0x1000 + off.toNat)) ∧
    (∀ u, u ≠ w → s.bus.bankingEnabled = true → memRead t (at_ u) = memRead s (at_ u)) ∧
    ∀ a : Word, 0xFFFA ≤ a.toNat → memRead t a = romLookup s.bus.blocks a.toNat

/-- `setBlock` appends a block and lowers the mapper's base to its page if needed; a fifth block is dropped (rules
R353, R384). -/
def Obligations.SetBlock : Prop :=
  ∀ (s : State) (base : Word) (bytes : List Byte) (rest : List HostOp), s.performing (.setBlock base bytes) rest →
    ∃ t, step s = .next t ∧ t.cpu = s.cpu ∧ t.apu = s.apu ∧ t.ay = s.ay ∧ t.host = { s.host with queue := rest } ∧
      t.bus.mem = s.bus.mem ∧ t.bus.bank = s.bus.bank ∧ t.bus.bankingEnabled = s.bus.bankingEnabled ∧
      (4 ≤ s.bus.blocks.length → t.bus = s.bus) ∧
      (s.bus.blocks.length < 4 →
        t.bus.blocks = s.bus.blocks ++ [{ base := base, bytes := bytes }] ∧
        t.bus.mapperBase.toNat =
          if s.bus.blocks = [] then base.toNat / 0x1000 * 0x1000
          else min s.bus.mapperBase.toNat (base.toNat / 0x1000 * 0x1000))

/-- The operand value and the effective address of every mode: zero-page sums and pointers wrap in page zero, 16-bit
sums modulo 0x10000. And how many bytes an instruction of each operand form has (rules R110, R121 to R125, R127 to R129,
R131 to R133). -/
def Obligations.OperandForms : Prop :=
  ∀ (s : State) (d : Byte) (w : Word) (m : MemMode),
    let zp (n : Nat) : Nat := (memRead s (BitVec.ofNat 16 (n % 0x100))).toNat
    srcValue (.imm d) s = d ∧ srcValue (.mem m) s = memRead s (effAddr m s) ∧ tgtValue .acc s = s.cpu.a ∧
      tgtValue (.mem m) s = memRead s (effAddr m s) ∧
      (effAddr (.zp d) s).toNat = d.toNat ∧
      (effAddr (.zpx d) s).toNat = (d.toNat + s.cpu.x.toNat) % 0x100 ∧
      (effAddr (.zpy d) s).toNat = (d.toNat + s.cpu.y.toNat) % 0x100 ∧
      effAddr (.abs w) s = w ∧
      (effAddr (.absx w) s).toNat = (w.toNat + s.cpu.x.toNat) % 0x10000 ∧
      (effAddr (.absy w) s).toNat = (w.toNat + s.cpu.y.toNat) % 0x10000 ∧
      (effAddr (.indx d) s).toNat = zp (d.toNat + s.cpu.x.toNat) + 0x100 * zp (d.toNat + s.cpu.x.toNat + 1) ∧
      (effAddr (.indy d) s).toNat = (zp d.toNat + 0x100 * zp (d.toNat + 1) + s.cpu.y.toNat) % 0x10000 ∧
      tgtLength .acc = 1 ∧ tgtLength (.mem m) = memLength m ∧
      srcLength (.imm d) = 2 ∧ srcLength (.mem m) = memLength m ∧
      memLength (.zp d) = 2 ∧ memLength (.zpx d) = 2 ∧ memLength (.zpy d) = 2 ∧
      memLength (.abs w) = 3 ∧ memLength (.absx w) = 3 ∧ memLength (.absy w) = 3 ∧
      memLength (.indx d) = 2 ∧ memLength (.indy d) = 2

/-! ## Loads, stores, transfers -/

/-- LDA, LDX and LDY put the operand in their register and set Z and N from it, in every form, and change nothing else
(rules R270 to R272). -/
def Obligations.LoadResults : Prop :=
  ∀ (m : Src) (s : State),
    let v := srcValue m s
    let next := s.cpu.pc + BitVec.ofNat 16 (srcLength m)
    ∃ q, AfterSetNZ v s.cpu.p q ∧
      (∃ t, exec (.lda m) s = .next t ∧ OnlyCpu s t { s.cpu with a := v, p := q, pc := next }) ∧
      (∃ t, exec (.ldx m) s = .next t ∧ OnlyCpu s t { s.cpu with x := v, p := q, pc := next }) ∧
      ∃ t, exec (.ldy m) s = .next t ∧ OnlyCpu s t { s.cpu with y := v, p := q, pc := next }

/-- STA, STX and STY make one bus write of their register at the effective address and change nothing else, no flag
included (rules R273 to R275). -/
def Obligations.StoreResults : Prop :=
  ∀ (m : MemMode) (s : State), s.memoryOk →
    let c := { s.cpu with pc := s.cpu.pc + BitVec.ofNat 16 (memLength m) }
    (∃ t, exec (.sta m) s = .next t ∧ CpuAndStore s t c (effAddr m s) s.cpu.a) ∧
    (∃ t, exec (.stx m) s = .next t ∧ CpuAndStore s t c (effAddr m s) s.cpu.x) ∧
    ∃ t, exec (.sty m) s = .next t ∧ CpuAndStore s t c (effAddr m s) s.cpu.y

/-- TAX, TAY, TXA and TYA copy a register, INX, INY, DEX and DEY count one up or down modulo 256; each sets Z and N from
the new value and changes nothing else (rules R276 to R279, R300, R301, R303, R304). -/
def Obligations.RegisterSteps : Prop :=
  ∀ (s : State) (rest : List Byte),
    let up (r : Byte) : Byte := BitVec.ofNat 8 ((r.toNat + 1) % 0x100)
    let down (r : Byte) : Byte := BitVec.ofNat 8 ((r.toNat + 0xFF) % 0x100)
    let result (op : Byte) (i : Instr) (v : Byte) (c : Cpu) : Prop :=
      decode (op :: rest) = .ok (i, rest) ∧
        ∃ t q, exec i s = .next t ∧ AfterSetNZ v s.cpu.p q ∧ OnlyCpu s t { c with p := q, pc := s.cpu.pc + 1 }
    result 0xAA .tax s.cpu.a { s.cpu with x := s.cpu.a } ∧ result 0xA8 .tay s.cpu.a { s.cpu with y := s.cpu.a } ∧
      result 0x8A .txa s.cpu.x { s.cpu with a := s.cpu.x } ∧ result 0x98 .tya s.cpu.y { s.cpu with a := s.cpu.y } ∧
      result 0xE8 .inx (up s.cpu.x) { s.cpu with x := up s.cpu.x } ∧
      result 0xC8 .iny (up s.cpu.y) { s.cpu with y := up s.cpu.y } ∧
      result 0xCA .dex (down s.cpu.x) { s.cpu with x := down s.cpu.x } ∧
      result 0x88 .dey (down s.cpu.y) { s.cpu with y := down s.cpu.y }

/-- PHA moves `sp` down by one, modulo 256, and stores A at the new `sp` in page one; PLA reads at the old `sp`, moves
it up, and sets Z and N (rules R280, R281, R321, R322). Each changes nothing else. -/
def Obligations.PushPullResults : Prop :=
  ∀ s : State, s.memoryOk →
    (∃ t, exec .pha s = .next t ∧ t.cpu = { s.cpu with sp := s.cpu.sp - 1, pc := s.cpu.pc + 1 } ∧
      memRead t (BitVec.ofNat 16 (0x0100 + (s.cpu.sp - 1).toNat)) = s.cpu.a ∧ OnlyStack [s.cpu.sp - 1] s t) ∧
    ∃ t q v, exec .pla s = .next t ∧ v = memRead s (BitVec.ofNat 16 (0x0100 + s.cpu.sp.toNat)) ∧
      AfterSetNZ v s.cpu.p q ∧
      OnlyCpu s t { s.cpu with a := v, sp := s.cpu.sp + 1, p := q, pc := s.cpu.pc + 1 }

/-! ## Arithmetic, logic, shifts -/

/-- ADC adds operand and carry to A in binary: C is the carry out of the unsigned sum, V says that the signed sum does
not fit, Z and N describe the result; nothing else changes, whatever D holds (rule R290). -/
def Obligations.AdcResult : Prop :=
  ∀ (m : Src) (s : State),
    let a := s.cpu.a
    let v := srcValue m s
    let c := (getFlag s.cpu.p .C).toNat
    let sum := a.toNat + v.toNat + c
    let signed := a.toInt + v.toInt + c
    ∃ t q, exec (.adc m) s = .next t ∧
      OnlyCpu s t { s.cpu with
        a := BitVec.ofNat 8 sum, p := q, pc := s.cpu.pc + BitVec.ofNat 16 (srcLength m) } ∧
      getFlag q .C = decide (0xFF < sum) ∧ getFlag q .V = decide (signed < -128 ∨ 127 < signed) ∧
      ShowsNZ (BitVec.ofNat 8 sum) q ∧ SameFlagsBut [.C, .V, .Z, .N] s.cpu.p q

/-- SBC subtracts operand and borrow from A in binary: C afterwards means no borrow, V says that the signed difference
does not fit, Z and N describe the result; nothing else changes (rule R291). -/
def Obligations.SbcResult : Prop :=
  ∀ (m : Src) (s : State),
    let a := s.cpu.a
    let v := srcValue m s
    let borrow := (!getFlag s.cpu.p .C).toNat
    let signed := a.toInt - v.toInt - borrow
    let r := BitVec.ofInt 8 ((a.toNat : Int) - v.toNat - borrow)
    ∃ t q, exec (.sbc m) s = .next t ∧
      OnlyCpu s t { s.cpu with a := r, p := q, pc := s.cpu.pc + BitVec.ofNat 16 (srcLength m) } ∧
      getFlag q .C = decide (v.toNat + borrow ≤ a.toNat) ∧ getFlag q .V = decide (signed < -128 ∨ 127 < signed) ∧
      ShowsNZ r q ∧ SameFlagsBut [.C, .V, .Z, .N] s.cpu.p q

/-- AND, ORA and EOR combine A and the operand bit by bit, set Z and N, and change nothing else (rules R292 to
R294). -/
def Obligations.LogicResults : Prop :=
  ∀ (m : Src) (s : State),
    let v := srcValue m s
    let result (i : Instr) (f : Bool → Bool → Bool) : Prop :=
      ∃ t q r, exec i s = .next t ∧ (∀ k, k < 8 → r.getLsbD k = f (s.cpu.a.getLsbD k) (v.getLsbD k)) ∧
        AfterSetNZ r s.cpu.p q ∧
        OnlyCpu s t { s.cpu with a := r, p := q, pc := s.cpu.pc + BitVec.ofNat 16 (srcLength m) }
    result (.and m) (· && ·) ∧ result (.ora m) (· || ·) ∧ result (.eor m) (· ^^ ·)

/-- BIT and the three compares change flags only: BIT takes N and V from the operand and Z from the AND; a compare
sets C when the register is at least the operand, Z when they are equal, N to bit 7 of the 8-bit difference (rules R295
to R298). -/
def Obligations.TestResults : Prop :=
  (∀ (m : MemMode) (s : State),
    let v := memRead s (effAddr m s)
    ∃ t q, exec (.bit m) s = .next t ∧
      OnlyCpu s t { s.cpu with p := q, pc := s.cpu.pc + BitVec.ofNat 16 (memLength m) } ∧
      (getFlag q .Z = true ↔ ∀ k < 8, (s.cpu.a.getLsbD k && v.getLsbD k) = false) ∧ getFlag q .N = v.getLsbD 7 ∧
      getFlag q .V = v.getLsbD 6 ∧ SameFlagsBut [.Z, .N, .V] s.cpu.p q) ∧
  ∀ (m : Src) (s : State),
    let v := srcValue m s
    let result (i : Instr) (r : Byte) : Prop :=
      ∃ t q, exec i s = .next t ∧
        OnlyCpu s t { s.cpu with p := q, pc := s.cpu.pc + BitVec.ofNat 16 (srcLength m) } ∧
        getFlag q .C = decide (v.toNat ≤ r.toNat) ∧ getFlag q .Z = decide (r = v) ∧
        getFlag q .N = decide (0x80 ≤ (r.toNat + 0x100 - v.toNat) % 0x100) ∧ SameFlagsBut [.C, .Z, .N] s.cpu.p q
    result (.cmp m) s.cpu.a ∧ result (.cpx m) s.cpu.x ∧ result (.cpy m) s.cpu.y

/-- INC and DEC write the byte at the effective address plus or minus one, modulo 256, and set Z and N from it, also
where the write is dropped; C and everything else stay (rules R299, R302). -/
def Obligations.IncDecMemory : Prop :=
  ∀ (m : MemMode) (s : State), s.memoryOk →
    let v := memRead s (effAddr m s)
    let result (i : Instr) (r : Byte) : Prop :=
      ∃ t q, exec i s = .next t ∧ AfterSetNZ r s.cpu.p q ∧
        CpuAndStore s t { s.cpu with p := q, pc := s.cpu.pc + BitVec.ofNat 16 (memLength m) } (effAddr m s) r
    result (.inc m) (BitVec.ofNat 8 (v.toNat + 1)) ∧ result (.dec m) (BitVec.ofNat 8 (v.toNat + 0xFF))

/-- The four shifts and rotates, on A and on memory: the result and the carry out as arithmetic on the operand and the
old carry, Z and N of the result, and nothing else (rules R305 to R308). -/
def Obligations.ShiftResults : Prop :=
  ∀ (g : Tgt) (s : State), s.memoryOk →
    let v := (tgtValue g s).toNat
    let c := (getFlag s.cpu.p .C).toNat
    let next := s.cpu.pc + BitVec.ofNat 16 (tgtLength g)
    let result (i : Instr) (r : Nat) (out : Bool) : Prop :=
      ∃ t q, exec i s = .next t ∧ AfterSetCNZ out (BitVec.ofNat 8 r) s.cpu.p q ∧
        match g with
        | .acc => OnlyCpu s t { s.cpu with a := BitVec.ofNat 8 r, p := q, pc := next }
        | .mem m => CpuAndStore s t { s.cpu with p := q, pc := next } (effAddr m s) (BitVec.ofNat 8 r)
    result (.asl g) (2 * v) (decide (0x80 ≤ v)) ∧ result (.lsr g) (v / 2) (decide (v % 2 = 1)) ∧
      result (.rol g) (2 * v + c) (decide (0x80 ≤ v)) ∧ result (.ror g) (v / 2 + 0x80 * c) (decide (v % 2 = 1))

/-! ## Control flow -/

/-- JMP goes to its operand, or to the 16-bit value at its pointer, whose second byte is at the next address modulo
0x10000; nothing else changes, no flag included (rules R130, R323, R324). -/
def Obligations.JmpResult : Prop :=
  ∀ (s : State) (lo hi : Byte) (rest : List Byte),
    let w := wordOf lo hi
    (decode (0x4C :: lo :: hi :: rest) = .ok (.jmp (.abs w), rest) ∧
      ∃ t, exec (.jmp (.abs w)) s = .next t ∧ OnlyCpu s t { s.cpu with pc := w }) ∧
    decode (0x6C :: lo :: hi :: rest) = .ok (.jmp (.ind w), rest) ∧
      ∃ t target, exec (.jmp (.ind w)) s = .next t ∧ OnlyCpu s t { s.cpu with pc := target } ∧
        target.toNat = (memRead s w).toNat + 0x100 * (memRead s (BitVec.ofNat 16 ((w.toNat + 1) % 0x10000))).toNat

/-- JSR pushes the address of its third byte, high byte first, and jumps; RTS pulls an address, low byte first, and goes
to the address after it; nothing else changes (rules R320, R325, R326). -/
def Obligations.SubroutineResults : Prop :=
  (∀ (s : State) (w : Word), s.memoryOk →
    let r := s.cpu.pc + 2
    ∃ t, exec (.jsr w) s = .next t ∧ t.cpu = { s.cpu with sp := s.cpu.sp - 2, pc := w } ∧
      (memRead t (stackAddr (s.cpu.sp - 1))).toNat = r.toNat / 0x100 ∧
      (memRead t (stackAddr (s.cpu.sp - 2))).toNat = r.toNat % 0x100 ∧
      OnlyStack [s.cpu.sp - 1, s.cpu.sp - 2] s t) ∧
  ∀ s : State,
    ∃ t target, exec .rts s = .next t ∧ OnlyCpu s t { s.cpu with sp := s.cpu.sp + 2, pc := target } ∧
      target.toNat = ((memRead s (stackAddr s.cpu.sp)).toNat + 0x100 * (memRead s (stackAddr (s.cpu.sp + 1))).toNat + 1)
        % 0x10000

/-- What is pushed comes back, whatever `sp` was: a PLA after a PHA gives the byte and the old `sp`, an RTS after a JSR
comes back to the instruction after the JSR with the old `sp` (rules R281, R322, R326). -/
def Obligations.StackRoundTrips : Prop :=
  ∀ (s : State) (w : Word), s.memoryOk →
    (∃ t u q, exec .pha s = .next t ∧ exec .pla t = .next u ∧ AfterSetNZ s.cpu.a s.cpu.p q ∧
      u.cpu = { s.cpu with p := q, pc := s.cpu.pc + 2 }) ∧
    ∃ t u, exec (.jsr w) s = .next t ∧ exec .rts t = .next u ∧ u.cpu = { s.cpu with pc := s.cpu.pc + 3 }

/-- BRK, the software trap: it pushes the address after its padding byte and `p` with B and U set in the copy, sets I
in `p`, and goes to the address at 0xFFFE; nothing else changes (rules R328, R390). -/
def Obligations.BrkTrap : Prop :=
  ∀ s : State, s.memoryOk →
    let r := s.cpu.pc + 2
    ∃ t q vector, exec .brk s = .next t ∧ t.cpu = { s.cpu with sp := s.cpu.sp - 3, p := q, pc := vector } ∧
      getFlag q .I = true ∧ SameFlagsBut [.I] s.cpu.p q ∧
      vector.toNat = (memRead s 0xFFFE).toNat + 0x100 * (memRead s 0xFFFF).toNat ∧
      (memRead t (stackAddr (s.cpu.sp - 1))).toNat = r.toNat / 0x100 ∧
      (memRead t (stackAddr (s.cpu.sp - 2))).toNat = r.toNat % 0x100 ∧
      (∀ f, getFlag (memRead t (stackAddr (s.cpu.sp - 3))) f = (f == .B || f == .U || getFlag s.cpu.p f)) ∧
      OnlyStack [s.cpu.sp - 1, s.cpu.sp - 2, s.cpu.sp - 3] s t

/-- The six branches: to the address after the instruction plus the signed offset, modulo 0x10000, when the condition
holds, else just past the instruction; nothing else changes (rules R126, R330 to R335). -/
def Obligations.BranchResults : Prop :=
  ∀ (s : State) (d : Byte) (rest : List Byte),
    let branch (op : Byte) (i : Instr) (taken : Bool) : Prop :=
      decode (op :: d :: rest) = .ok (i, rest) ∧ ∃ t, exec i s = .next t ∧ OnlyCpu s t { s.cpu with
        pc := BitVec.ofInt 16 ((s.cpu.pc.toNat : Int) + 2 + if taken then d.toInt else 0) }
    branch 0x90 (.bcc d) (!getFlag s.cpu.p .C) ∧ branch 0xB0 (.bcs d) (getFlag s.cpu.p .C) ∧
      branch 0xD0 (.bne d) (!getFlag s.cpu.p .Z) ∧ branch 0xF0 (.beq d) (getFlag s.cpu.p .Z) ∧
      branch 0x10 (.bpl d) (!getFlag s.cpu.p .N) ∧ branch 0x30 (.bmi d) (getFlag s.cpu.p .N)

/-- CLC and SEC write C and no other flag, NOP writes nothing; each is one byte (rules R337 to R339). -/
def Obligations.FlagInstructions : Prop :=
  ∀ (s : State) (rest : List Byte),
    let next := s.cpu.pc + 1
    (∃ t q, decode (0x18 :: rest) = .ok (.clc, rest) ∧ exec .clc s = .next t ∧
      OnlyCpu s t { s.cpu with p := q, pc := next } ∧ getFlag q .C = false ∧ SameFlagsBut [.C] s.cpu.p q) ∧
    (∃ t q, decode (0x38 :: rest) = .ok (.sec, rest) ∧ exec .sec s = .next t ∧
      OnlyCpu s t { s.cpu with p := q, pc := next } ∧ getFlag q .C = true ∧ SameFlagsBut [.C] s.cpu.p q) ∧
    ∃ t, decode (0xEA :: rest) = .ok (.nop, rest) ∧ exec .nop s = .next t ∧ OnlyCpu s t { s.cpu with pc := next }

/-! ## All CPU instructions -/

/-- Which flags each CPU instruction may write: none writes D, B or U; only BRK writes I, and sets it; only ADC, SBC
and BIT write V; only the arithmetic, compare, shift and carry instructions write C (rules R23, R24). -/
def Obligations.FlagWriters : Prop :=
  ∀ (i : Instr) (s t : State), i.isCpu = true → exec i s = .next t →
    SameFlagsBut [.C, .Z, .I, .V, .N] s.cpu.p t.cpu.p ∧
    (getFlag t.cpu.p .I ≠ getFlag s.cpu.p .I → i = .brk ∧ getFlag t.cpu.p .I = true) ∧
    (getFlag t.cpu.p .V ≠ getFlag s.cpu.p .V → ∃ m n, i = .adc m ∨ i = .sbc m ∨ i = .bit n) ∧
    (getFlag t.cpu.p .C ≠ getFlag s.cpu.p .C → i = .clc ∨ i = .sec ∨ ∃ m g, i = .adc m ∨ i = .sbc m ∨ i = .cmp m ∨
      i = .cpx m ∨ i = .cpy m ∨ i = .asl g ∨ i = .lsr g ∨ i = .rol g ∨ i = .ror g)

/-- What no CPU instruction reaches: the AY, the host, the data blocks, the stop marker and the chips' timers; and only
PHA, PLA, JSR, RTS and BRK move `sp` (rules R21, R26, R58, R70, R421). -/
def Obligations.CpuReach : Prop :=
  ∀ (i : Instr) (s t : State), i.isCpu = true → exec i s = .next t →
    t.ay = s.ay ∧ t.host = s.host ∧ t.bus.blocks = s.bus.blocks ∧ t.bus.mapperBase = s.bus.mapperBase ∧
      t.cpu.stopSp = s.cpu.stopSp ∧ t.apu.lastFrameCounter = s.apu.lastFrameCounter ∧
      (∀ k, (t.apu.channel k).counter = (s.apu.channel k).counter) ∧
      (t.cpu.sp ≠ s.cpu.sp → i = .pha ∨ i = .pla ∨ i = .rts ∨ i = .brk ∨ ∃ w, i = .jsr w)

/-- STA, STX or STY to a register of the APU window or of the bank range is that register command: bus and APU end as
the command leaves them, which is what one bus write of the byte leaves (rules R74, R76, R134). -/
def Obligations.StoreIsCommand : Prop :=
  ∀ (s : State) (m : MemMode) (i : Instr),
    ∀ c ∈ ([(.sta m, s.cpu.a), (.stx m, s.cpu.x), (.sty m, s.cpu.y)] : List (Instr × Byte)),
      decodeCommand (.bus (effAddr m s) c.2) = some i →
        ∃ t u, exec c.1 s = .next t ∧ exec i s = .next u ∧ t.apu = u.apu ∧ t.bus = u.bus ∧ u.cpu = s.cpu ∧
          u = memWrite s (effAddr m s) c.2

/-! ## Register commands of the APU and the bank registers -/

/-- The APU registers whose write is the store alone, the unlisted ones among them: the register file changes at that
register and nothing else does (rules R190, R192 to R194, R196 to R198, R200, R201, R203, R208, R209, R215). -/
def Obligations.ApuPlainWrites : Prop :=
  ∀ (v : Byte) (s : State),
    (∀ c ∈ ([(.apuPulse1Control v, 0x00), (.apuPulse1Sweep v, 0x01), (.apuPulse1TimerLow v, 0x02),
        (.apuPulse2Control v, 0x04), (.apuPulse2Sweep v, 0x05), (.apuPulse2TimerLow v, 0x06),
        (.apuTriangleControl v, 0x08), (.apuTriangleTimerLow v, 0x0A), (.apuNoiseControl v, 0x0C),
        (.apuDmcAddress v, 0x12), (.apuDmcLength v, 0x13), (.apuUnlisted .r09 v, 0x09), (.apuUnlisted .r0D v, 0x0D),
        (.apuUnlisted .r14 v, 0x14), (.apuUnlisted .r16 v, 0x16)] : List (Instr × Fin 32)),
      ∃ t, exec c.1 s = .next t ∧ OnlyApu s t { s.apu with regs := s.apu.regs.set c.2 v }) ∧
    ∀ k : BitVec 3, ∃ t, exec (.apuUnlisted (.high k) v) s = .next t ∧
      OnlyApu s t { s.apu with regs := s.apu.regs.set! (0x18 + k.toNat) v }

/-- The timer reloads as functions of the registers, at every moment (rules R32, R194, R201, R204, R206, R247, R251);
the two tables are the spec's defaults (notes/assumptions/21.md). -/
def Obligations.PeriodsOfRegisters : Prop :=
  ∀ a : Apu,
    let r (i : BitVec 5) : Nat := (a.reg i).toNat
    a.period .pulse1 = 2 * (r 0x03 % 8 * 0x100 + r 0x02 + 1) * 44100 ∧
      a.period .pulse2 = 2 * (r 0x07 % 8 * 0x100 + r 0x06 + 1) * 44100 ∧
      a.period .triangle = (r 0x0B % 8 * 0x100 + r 0x0A + 1) * 44100 ∧
      a.period .noise = 44100 *
        [4, 8, 16, 32, 64, 96, 128, 160, 202, 254, 380, 508, 762, 1016, 2034, 4068].getD (r 0x0E % 16) 0 ∧
      a.period .dmc = 44100 *
        [428, 380, 340, 320, 286, 254, 226, 214, 190, 160, 142, 128, 106, 84, 72, 54].getD (r 0x10 % 16) 0

/-- The length writes 0x4003, 0x4007, 0x400B and 0x400F load the length of an enabled channel from the table (its
entries 19 to 30 are presumed, notes/assumptions/21.md); a pulse's restarts its envelope and puts its sequencer to 0, the
triangle's sets the linear counter's reload flag, the noise's restarts its envelope. A write of 0x400E that changes the
mode bit puts the noise register to 1. Nothing else changes (rules R191, R195, R199, R202, R204, R205, R220). -/
def Obligations.LengthWrites : Prop :=
  ∀ (v : Byte) (s : State),
    let table : List Nat := [10, 254, 20, 2, 40, 4, 80, 6, 160, 8, 60, 10, 14, 12, 26, 14, 12, 16, 24, 18, 48, 20, 96, 22,
      192, 24, 72, 26, 16, 28, 32, 30]
    let len (c : Channel) (k : Nat) : Nat :=
      if (s.apu.reg 0x15).getLsbD k then table.getD (v.toNat / 8) 0 else c.lenCounter
    (∃ t, exec (.apuPulse1Length v) s = .next t ∧ OnlyApu s t { s.apu with
      regs := s.apu.regs.set 0x03 v
      pulse1 := { s.apu.pulse1 with lenCounter := len s.apu.pulse1 0, updateEnvelope := true, sequencer := 0 } }) ∧
    (∃ t, exec (.apuPulse2Length v) s = .next t ∧ OnlyApu s t { s.apu with
      regs := s.apu.regs.set 0x07 v
      pulse2 := { s.apu.pulse2 with lenCounter := len s.apu.pulse2 1, updateEnvelope := true, sequencer := 0 } }) ∧
    (∃ t, exec (.apuTriangleLength v) s = .next t ∧ OnlyApu s t { s.apu with
      regs := s.apu.regs.set 0x0B v
      triangle := { s.apu.triangle with lenCounter := len s.apu.triangle 2, linearReloadFlag := true } }) ∧
    (∃ t, exec (.apuNoiseLength v) s = .next t ∧ OnlyApu s t { s.apu with
      regs := s.apu.regs.set 0x0F v
      noise := { s.apu.noise with lenCounter := len s.apu.noise 3, updateEnvelope := true } }) ∧
    ∃ t, exec (.apuNoiseMode v) s = .next t ∧ OnlyApu s t { s.apu with
      regs := s.apu.regs.set 0x0E v
      noiseLfsr := if v.getLsbD 7 = (s.apu.reg 0x0E).getLsbD 7 then s.apu.noiseLfsr else 1 }

/-- A write of 0x4010 with bit 7 clear clears the DMC's flag; a write of 0x4011 loads the delta counter from the low
seven bits; a write of 0x4015 zeroes the length of every channel whose bit is clear, stops the DMC or starts it from its
registers unless it is playing, and clears its flag; a write of 0x4017 restarts the frame phase. Nothing else changes
(rules R206, R207, R210, R211, R221). -/
def Obligations.ControlWrites : Prop :=
  ∀ (v : Byte) (s : State),
    let len (c : Channel) (k : Nat) : Channel := { c with lenCounter := if v.getLsbD k then c.lenCounter else 0 }
    let starts := v.getLsbD 4 && !s.apu.dmcActive
    (∃ t, exec (.apuDmcControl v) s = .next t ∧ OnlyApu s t { s.apu with
      regs := s.apu.regs.set 0x10 v, dmcIrqFlag := s.apu.dmcIrqFlag && v.getLsbD 7 }) ∧
    (∃ t, exec (.apuDmcDelta v) s = .next t ∧ OnlyApu s t { s.apu with
      regs := s.apu.regs.set 0x11 v, dmcDelta := v.toNat % 0x80 }) ∧
    (∃ t, exec (.apuFrameCounter v) s = .next t ∧ OnlyApu s t { s.apu with
      regs := s.apu.regs.set 0x17 v, frames := 0 }) ∧
    ∃ t, exec (.apuEnables v) s = .next t ∧ OnlyApu s t { s.apu with
      regs := s.apu.regs.set 0x15 v
      pulse1 := len s.apu.pulse1 0, pulse2 := len s.apu.pulse2 1
      triangle := len s.apu.triangle 2, noise := len s.apu.noise 3
      dmcActive := v.getLsbD 4
      dmcAddr := if starts then BitVec.ofNat 16 (0xC000 + (s.apu.reg 0x12).toNat * 64) else s.apu.dmcAddr
      dmcLen := if v.getLsbD 4 then (if starts then (s.apu.reg 0x13).toNat * 16 + 1 else s.apu.dmcLen) else 0
      dmcIrqFlag := false }

/-- A write anywhere in 0x5000 to 0x5FFF stores all 8 bits in the bank register of the low three address bits and
enables banking; nothing else changes but what the banked window reads (rules R76, R88, R142). -/
def Obligations.BankSelectResult : Prop :=
  ∀ (off : BitVec 12) (v : Byte) (s : State),
    ∃ t, exec (.bankSelect off v) s = .next t ∧
      CpuAndStore s t s.cpu (BitVec.ofNat 16 (0x5000 + off.toNat)) v ∧
      t.bus.bank = s.bus.bank.set! (off.toNat % 8) v

/-! ## Register commands of the AY -/

/-- An AY register write stores the whole value, which `AyRead` then gives, and nothing else changes; a write of
register 13 also restarts the envelope (rules R152 to R160). -/
def Obligations.AyWrites : Prop :=
  ∀ (v : Word) (s : State),
    (∀ c ∈ ([(.ayToneLow .A v, 0), (.ayToneHigh .A v, 1), (.ayToneLow .B v, 2), (.ayToneHigh .B v, 3),
        (.ayToneLow .C v, 4), (.ayToneHigh .C v, 5), (.ayNoisePeriod v, 6), (.ayMixer v, 7), (.ayAmplitude .A v, 8),
        (.ayAmplitude .B v, 9), (.ayAmplitude .C v, 10), (.ayEnvPeriodLow v, 11), (.ayEnvPeriodHigh v, 12),
        (.ayPort .reg14 v, 14), (.ayPort .reg15 v, 15)] : List (Instr × Fin 16)),
      ∃ t, exec c.1 s = .next t ∧ OnlyAy s t { s.ay with regs := s.ay.regs.set c.2 v } ∧ t.ay.read c.2 = v) ∧
    ∃ t, exec (.ayEnvShape v) s = .next t ∧ t.ay.read 13 = v ∧ OnlyAy s t { s.ay with
      regs := s.ay.regs.set 13 v, envPos := 0, envRamp := false, envHolding := false, envCounter := 0 }

/-- The host's AY and VGM register writes: a register number above 15 is discarded and read as 0; `A0 aa dd` is the AY
write and `B4 aa dd` the bus write of 0x4000 + aa (rules R152, R160, R354, R357). -/
def Obligations.HostRegisterWrites : Prop :=
  ∀ (s : State) (rest : List HostOp),
    (∀ (reg : Nat) (v : Word), 15 < reg → s.ay.read reg = 0 ∧
      (s.performing (.ayWrite reg v) rest → step s = .next (s.withQueue rest))) ∧
    (∀ (reg : Nat) (v : Word) (i : Instr), decodeCommand (.ay reg v) = some i → s.performing (.ayWrite reg v) rest →
      step s = exec i (s.withQueue rest)) ∧
    (∀ aa dd : Byte, s.performing (.vgmA0 aa dd) rest →
      step s = step (s.withQueue (.ayWrite aa.toNat (BitVec.ofNat 16 dd.toNat) :: rest))) ∧
    ∀ aa dd : Byte, s.performing (.vgmB4 aa dd) rest →
      step s = step (s.withQueue (.busWrite (BitVec.ofNat 16 (0x4000 + aa.toNat)) dd :: rest))

/-! ## The samples of the APU -/

/-- The signals of each frame step in both modes, the phase it leaves, and its clocks: `quarter` clocks the three
envelopes and the linear counter, `half` the four length counters and the two sweep dividers, and nothing else changes
(rules R232, R233, R241). -/
def Obligations.FrameSignals : Prop :=
  ∀ a : Apu, a.framesOk →
    let b := a.frameStep
    let s := a.frames + 1
    let envelope (k : ChannelId) : Channel := if b.quarter then (a.envelopeClock k).channel k else a.channel k
    let length (k : ChannelId) (c : Channel) : Channel :=
      if b.half then { c with lenCounter := ((a.lengthClock k).channel k).lenCounter } else c
    let sweep (r : BitVec 5) (c : Channel) : Channel :=
      if b.half then
        { c with sweepCounter := if c.sweepCounter = 0 then (a.reg r).toNat / 16 % 8 else c.sweepCounter - 1 }
      else c
    (if (a.reg 0x17).getLsbD 7 then
      b.quarter = decide (s ≠ 4) ∧ b.half = decide (s = 2 ∨ s = 5) ∧ b.full = decide (s = 5) ∧
        b.frames = if s = 5 then 0 else s
    else
      b.quarter = true ∧ b.half = decide (s = 2 ∨ s = 4) ∧ b.full = decide (s = 4) ∧ b.frames = if s = 4 then 0 else s) ∧
    b = { a with
      quarter := b.quarter, half := b.half, full := b.full, frames := b.frames
      pulse1 := sweep 0x01 (length .pulse1 (envelope .pulse1))
      pulse2 := sweep 0x05 (length .pulse2 (envelope .pulse2))
      triangle := length .triangle (if b.quarter then a.linearClock.triangle else a.triangle)
      noise := length .noise (envelope .noise) }

/-- From reset the frame phase first moves in the 185th sample: for as long as no register is written, the divider
holds one sample's time per sample and the phase is 0, and in that sample it becomes 1 (rules R230, R231; the frame
period and the clock rates are the spec's defaults, notes/assumptions/21.md). -/
def Obligations.FirstFrameStep : Prop :=
  ∀ (b : Bus) (volume n : Nat),
    let after := turns (Apu.sample b) n (Apu.resetWith volume)
    (n ≤ 184 → after.frames = 0 ∧ after.lastFrameCounter = n * 1789773) ∧ (n = 185 → after.frames = 1)

/-- One envelope clock: a start puts the level to 15, a divider at 0 reloads and lowers the level or, at 0, restarts a
looping one, any other divider counts down. So after its start an envelope that does not loop and has divider period 0
falls by one at every quarter clock, from 15 to 0, and then stays at 0 (rules R237, R260). -/
def Obligations.EnvelopeDecay : Prop :=
  ∀ (a : Apu) (k : ChannelId) (n : Nat), k ∈ [ChannelId.pulse1, .pulse2, .noise] →
    let c := a.channel k
    let period := (a.reg k.controlReg).toNat % 16
    let loop := (a.reg k.controlReg).getLsbD 5
    (∃ level divider : BitVec 4,
      a.envelopeClock k = a.setChannel k { c with updateEnvelope := false, decayCounter := level, divider := divider } ∧
      divider.toNat =
        (if c.updateEnvelope = true ∨ c.divider.toNat = 0 then period else c.divider.toNat - 1) ∧
      level.toNat =
        if c.updateEnvelope then 15
        else if c.divider.toNat ≠ 0 then c.decayCounter.toNat
        else if c.decayCounter.toNat ≠ 0 then c.decayCounter.toNat - 1
        else if loop then 15 else 0) ∧
    (c.updateEnvelope = true → loop = false → period = 0 →
      ((turns (Apu.envelopeClock k) (n + 1) a).channel k).decayCounter.toNat = 15 - n)

/-- With the halt bit clear `n` half clocks take `n` from a length counter, down to 0; with it set they take nothing. The
triangle's linear counter reloads while its flag is set, at every quarter clock (rule R239 over rule R37 (b),
notes/assumptions/23.md), and else counts down to 0; the flag clears when the control bit is clear (rules R238, R239,
R260). -/
def Obligations.LengthAndLinearClocks : Prop :=
  (∀ (a : Apu) (k : ChannelId) (n : Nat), k ≠ .dmc →
    ((turns (Apu.lengthClock k) n a).channel k).lenCounter =
      if (a.reg k.controlReg).getLsbD (if k = .triangle then 7 else 5) then (a.channel k).lenCounter
      else (a.channel k).lenCounter - n) ∧
  ∀ a : Apu,
    a.linearClock = { a with triangle := { a.triangle with
      linearCounter :=
        if a.triangle.linearReloadFlag then (a.reg 0x08).toNat % 0x80
        else if a.triangle.linearCounter > 0 then a.triangle.linearCounter - 1 else a.triangle.linearCounter
      linearReloadFlag := a.triangle.linearReloadFlag && (a.reg 0x08).getLsbD 7 } }

/-- A pulse timer steps its sequencer once per period of accumulated time, modulo 8, and keeps the remainder; the
triangle's does so modulo 32, and only while both its counters run. After every sample each channel's counter is below
its period plus one sample's time, 1789773 at the spec's default clock (notes/assumptions/21.md; rules R37 (a), R242,
R244, R255). -/
def Obligations.TimerTurns : Prop :=
  (∀ (a : Apu) (k : ChannelId), k = .pulse1 ∨ k = .pulse2 → (a.channel k).sequencer < 8 →
    let c := a.channel k
    a.pulseTimer k = a.setChannel k { c with
      counter := c.counter % a.period k, sequencer := (c.sequencer + c.counter / a.period k) % 8 }) ∧
  (∀ a : Apu, a.triangle.sequencer < 32 →
    let c := a.triangle
    a.triangleTimer = { a with triangle := { c with
      counter := c.counter % a.period .triangle
      sequencer :=
        if c.lenCounter ≠ 0 ∧ c.linearCounter ≠ 0 then (c.sequencer + c.counter / a.period .triangle) % 32
        else c.sequencer } }) ∧
  ∀ (b : Bus) (a : Apu) (k : ChannelId), ((a.sample b).channel k).counter < (a.sample b).period k + 1789773

/-- One turn of the APU's noise register shifts it right by one and puts the feedback of bits 0 and 1, or 0 and 6 in
short mode, into bit 14; one turn of the AY's puts that of bits 0 and 3 into bit 16. A register that is not zero stays so,
in short mode too (rule R246's shift over its remark, notes/assumptions/23.md). Each timer turns its register once per
period of accumulated time and keeps the remainder (rules R37 (c), R173, R246). -/
def Obligations.NoiseShift : Prop :=
  (∀ (short : Bool) (r : BitVec 15),
    (∀ k, k < 14 → (noiseShift short r).getLsbD k = r.getLsbD (k + 1)) ∧
      (noiseShift short r).getLsbD 14 = (r.getLsbD 0 ^^ r.getLsbD (if short then 6 else 1)) ∧
      (r ≠ 0 → noiseShift short r ≠ 0)) ∧
  (∀ r : BitVec 17,
    (∀ k, k < 16 → (ayNoiseShift r).getLsbD k = r.getLsbD (k + 1)) ∧
      (ayNoiseShift r).getLsbD 16 = (r.getLsbD 0 ^^ r.getLsbD 3) ∧ (r ≠ 0 → ayNoiseShift r ≠ 0)) ∧
  (∀ a : Apu, a.noiseTimer = { a with
    noise := { a.noise with counter := a.noise.counter % a.period .noise }
    noiseLfsr := turns (noiseShift ((a.reg 0x0E).getLsbD 7)) (a.noise.counter / a.period .noise) a.noiseLfsr }) ∧
  ∀ a : Ay, a.sample.noiseCounter = a.noiseCounter % a.noisePeriod + a.clockHz ∧
    a.sample.noiseLfsr = turns ayNoiseShift (a.noiseCounter / a.noisePeriod) a.noiseLfsr

/-- One fetch of a playing DMC channel: it reads one byte from the bus at the sample address, and the address goes on to
the next, 0xFFFF to 0x8000; the last byte restarts a looping sample and else ends it, raising the flag if enabled; nothing
else changes. One
bit moves the delta counter by 2 within 0 to 127 and is shifted out of the buffer. The timer turns once per period of
accumulated time; a turn fetches if the buffer is empty and the channel plays, and then takes a bit if there is one
(rules R221, R250, R252, R253). -/
def Obligations.DmcFetch : Prop :=
  (∀ (b : Bus) (a : Apu), a.dmcActive = true →
    let loop := (a.reg 0x10).getLsbD 6
    let next := BitVec.ofNat 16 (if a.dmcAddr.toNat = 0xFFFF then 0x8000 else a.dmcAddr.toNat + 1)
    let filled : Apu := { a with dmcBuffer := b.read a.dmcAddr, dmc := { a.dmc with sequencer := 8 } }
    (1 < a.dmcLen → a.dmcFetch b = { filled with dmcAddr := next, dmcLen := a.dmcLen - 1 }) ∧
      (a.dmcLen = 1 → loop = true → a.dmcFetch b = { filled with
        dmcAddr := BitVec.ofNat 16 (0xC000 + (a.reg 0x12).toNat * 64), dmcLen := (a.reg 0x13).toNat * 16 + 1 }) ∧
      (a.dmcLen = 1 → loop = false → a.dmcFetch b = { filled with
        dmcAddr := next, dmcLen := 0, dmcActive := false
        dmcIrqFlag := a.dmcIrqFlag || (a.reg 0x10).getLsbD 7 })) ∧
  (∀ a : Apu, a.dmcBit = { a with
    dmcDelta :=
      if a.dmcBuffer.getLsbD 0 then min (a.dmcDelta + 2) 127 else if a.dmcDelta ≥ 2 then a.dmcDelta - 2 else 0
    dmcBuffer := BitVec.ofNat 8 (a.dmcBuffer.toNat / 2)
    dmc := { a.dmc with sequencer := a.dmc.sequencer - 1 } }) ∧
  ∀ (b : Bus) (a : Apu),
    let turn (a : Apu) : Apu :=
      if a.dmc.sequencer ≠ 0 then a.dmcBit else if a.dmcActive then (a.dmcFetch b).dmcBit else a
    a.dmcTimer b = turns turn (a.dmc.counter / a.period .dmc)
      { a with dmc := { a.dmc with counter := a.dmc.counter % a.period .dmc } }

/-- What the channels put out. A pulse: 0 while disabled, out of length or with a timer below 8; else the level of the
played volume while the duty pattern is 1, and 0 while it is 0. The triangle: the level of its ramp step while enabled,
whatever its counters. The noise: 0 while disabled, out of length or with bit 0 of its register set; else the level of
the played volume. The DMC: its top level times the delta counter over 127, while enabled. Nothing but the channel's
output and played volume changes. Levels are the open tables scaled by the volume (rules R36, R236, R243, R245, R248, R249, R254; the duty patterns are the spec's defaults,
notes/assumptions/21.md). -/
def Obligations.PulseOutputs : Prop :=
  (∀ (a : Apu) (k : ChannelId) (lo : BitVec 5), (k = .pulse1 ∧ lo = 0x02) ∨ (k = .pulse2 ∧ lo = 0x06) →
    let c := a.channel k
    let control := a.reg k.controlReg
    let timer := ((a.reg (lo + 1)).toNat % 8) * 0x100 + (a.reg lo).toNat
    let duty := [[0, 1, 0, 0, 0, 0, 0, 0], [0, 1, 1, 0, 0, 0, 0, 0], [0, 1, 1, 1, 1, 0, 0, 0], [1, 0, 0, 1, 1, 1, 1, 1]]
    (a.enabled k = false ∨ c.lenCounter = 0 ∨ timer < 8 →
      a.pulseOutput k lo = a.setChannel k { c with output := 0 }) ∧
    (a.enabled k = true → c.lenCounter ≠ 0 → 8 ≤ timer → c.sequencer < 8 →
      ∃ volume : BitVec 4,
        volume.toNat = (if control.getLsbD 4 then control.toNat % 16 else c.decayCounter.toNat) ∧
        a.pulseOutput k lo = a.setChannel k { c with
          volume := volume
          output :=
            if (duty.getD (control.toNat / 64) []).getD c.sequencer 0 = 1 then
              min 0xFFFF ((Config.pulseLevel volume).toNat * a.volumePercent / 100)
            else 0 })) ∧
  (∀ a : Apu, a.triangle.sequencer < 32 →
    let step := a.triangle.sequencer
    let level := Config.triangleLevel (BitVec.ofNat 4 (if step ≤ 15 then step else 31 - step))
    a.triangleOutput = { a with triangle := { a.triangle with
      output := if a.enabled .triangle then min 0xFFFF (level.toNat * a.volumePercent / 100) else 0 } }) ∧
  (∀ a : Apu,
    let c := a.noise
    let control := a.reg 0x0C
    (a.enabled .noise = false ∨ c.lenCounter = 0 → a.noiseOutput = { a with noise := { c with output := 0 } }) ∧
    (a.enabled .noise = true → c.lenCounter ≠ 0 →
      ∃ volume : BitVec 4,
        volume.toNat = (if control.getLsbD 4 then control.toNat % 16 else c.decayCounter.toNat) ∧
        a.noiseOutput = { a with noise := { c with
          volume := volume
          output :=
            if a.noiseLfsr.getLsbD 0 then 0
            else min 0xFFFF ((Config.noiseLevel volume).toNat * a.volumePercent / 100) } })) ∧
  ∀ a : Apu,
    a.dmcOutput = { a with dmc := { a.dmc with
      output :=
        if a.enabled .dmc then min 0xFFFF ((Config.dmcLevel 15).toNat * a.volumePercent / 100) * a.dmcDelta / 127
        else 0 } }

/-- A channel whose enable bit is clear puts out 0 in every sample, and with all five clear the sample word is 0, for
every choice of the level tables (rules R37 (e), R256, R258). -/
def Obligations.DisabledChannelsSilent : Prop :=
  ∀ (b : Bus) (a : Apu),
    (∀ k, a.enabled k = false → ((a.sample b).channel k).output = 0) ∧
      ((∀ k, a.enabled k = false) → a.sampleResult b = 0)

/-- Taking an APU sample runs the frame steps that are due, the five timers, the five outputs and the grant of one
sample's time, in that order, on the APU alone, and never writes a register. The sample word carries one 16-bit amplitude
on both sides: the clamped sum of the five scaled outputs (rules R230, R231, R255, R257, R258, R420; the clock rates and
the frame period, 7457 times 44100, are the spec's defaults, notes/assumptions/21.md). -/
def Obligations.ApuSampleStep : Prop :=
  ∀ (s : State) (rest : List HostOp), s.performing .apuSample rest →
    let due := s.apu.lastFrameCounter
    let framed := turns Apu.frameStep (due / 328853700)
      { s.apu with quarter := false, half := false, full := false, lastFrameCounter := due % 328853700 }
    let timed := ((framed.pulseTimer .pulse1).pulseTimer .pulse2).triangleTimer.noiseTimer.dmcTimer s.bus
    let o := ((timed.pulseOutput .pulse1 0x02).pulseOutput .pulse2 0x06).triangleOutput.noiseOutput.dmcOutput
    let granted (c : Channel) : Channel := { c with counter := c.counter + 1789773 }
    ∃ t m, step s = .next t ∧ t.cpu = s.cpu ∧ t.bus = s.bus ∧ t.ay = s.ay ∧ t.apu = s.apu.sample s.bus ∧
      t.apu = { o with
        pulse1 := granted o.pulse1, pulse2 := granted o.pulse2, triangle := granted o.triangle
        noise := granted o.noise, dmc := granted o.dmc, lastFrameCounter := o.lastFrameCounter + 1789773 } ∧
      t.apu.regs = s.apu.regs ∧ t.apu.volumePercent = s.apu.volumePercent ∧ m ≤ 0xFFFF ∧
      m = min 0xFFFF (t.apu.pulse1.output * 0xB0 / 256 + t.apu.pulse2.output * 0xB0 / 256 +
        t.apu.triangle.output * 0x50 / 256 + t.apu.noise.output * 0x50 / 256 + t.apu.dmc.output * 0x180 / 256) ∧
      t.host = { s.host with queue := rest, results := .apuSample (BitVec.ofNat 32 (m * 0x10000 + m)) :: s.host.results }

/-! ## The samples of the AY -/

/-- The AY's periods: a value of 0 counts as 1, and the tone period has 16 bits on the AY8930 and 12 otherwise (rules
R151, R171); the divider 16 is the spec's default (notes/assumptions/21.md). -/
def Obligations.AyPeriods : Prop :=
  ∀ (a : Ay) (c : AyChannel),
    let r (i : Nat) : Nat := (a.read i).toNat
    let scaled (n : Nat) : Nat := max n 1 * 16 * a.sampleRateHz
    a.tonePeriod c = scaled ((r (2 * c.index + 1) * 0x100 + r (2 * c.index) % 0x100) %
        (if Config.isAY8930 a.chipType then 0x10000 else 0x1000)) ∧
      a.noisePeriod = scaled (r 6 % 32) ∧ a.envPeriod = scaled (r 12 % 0x100 * 0x100 + r 11 % 0x100)

/-- The level of the envelope `n` periods after its start, for all shapes and for both lengths: single ramps that end
at 0, ramps that hold at the opposite end or at their own, sawtooths and triangles (rules R158, R174, R175). -/
def Obligations.EnvelopeShapes : Prop :=
  ∀ (a : Ay) (n : Nat), a.envPos = 0 → a.envRamp = false → a.envHolding = false →
    let top := if Config.isAY8930 a.chipType then 31 else 15
    let shape := (a.read 13).toNat
    let continue_ := shape / 8 % 2 = 1
    let attack := shape / 4 % 2 = 1
    let alternate := shape / 2 % 2 = 1
    let hold := shape % 2 = 1
    let ramp (up : Prop) [Decidable up] (i : Nat) : Nat := if up then i else top - i
    (turns Ay.envTick n a).envLevel = some (BitVec.ofNat 5 (
      if ¬ continue_ then (if n ≤ top then ramp attack n else 0)
      else if hold then
        (if n ≤ top then ramp attack n else if attack ∧ ¬ alternate ∨ ¬ attack ∧ alternate then top else 0)
      else if alternate ∧ n / (top + 1) % 2 = 1 then ramp (¬ attack) (n % (top + 1))
      else ramp attack (n % (top + 1))))

/-- A tone's phase flips once per period of accumulated time, and the counter keeps the remainder and one more
sample's time, whether or not the mixer enables the tone (rules R170, R172). -/
def Obligations.ToneFlips : Prop :=
  ∀ (a : Ay) (c : AyChannel), a.sampleRateHz ≠ 0 →
    (a.sample.tone c).counter = (a.tone c).counter % a.tonePeriod c + a.clockHz ∧
      ((a.sample.tone c).phase = (a.tone c).phase ↔ (a.tone c).counter / a.tonePeriod c % 2 = 0)

/-- What an AY channel puts out: 0 unless both gates are open, a gate being held open by a set mixer bit; then its
fixed amplitude, or the envelope's when bit 4 of its register is set (rules R155, R156, R176, R177). -/
def Obligations.AyGates : Prop :=
  ∀ (a : Ay) (c : AyChannel),
    let mixer := a.read 7
    let amp := a.read (8 + c.index)
    let tone := (a.tone c).phase = true ∨ mixer.getLsbD c.index = true
    let noise := a.noiseLfsr.getLsbD 0 = true ∨ mixer.getLsbD (3 + c.index) = true
    let level (i : Nat) : Nat := min 0xFFFF ((Config.ayLevel (BitVec.ofNat 5 i)).toNat * a.volumePercent / 100)
    (¬ (tone ∧ noise) → a.channelAmp c = 0) ∧
    (tone → noise → amp.getLsbD 4 = false →
      a.channelAmp c = level (if amp.toNat % 16 = 0 then 0 else 2 * (amp.toNat % 16) + 1)) ∧
    (tone → noise → amp.getLsbD 4 = true → ∀ l : BitVec 5, a.envLevel = some l → l.toNat ≤ a.envStepMask.toNat →
      a.channelAmp c = level (if Config.isAY8930 a.chipType then l.toNat else 2 * l.toNat + 1))

/-- Taking an AY sample turns each tone, the noise and the envelope once per period of accumulated time, then puts out
the clamped sum of the three channels on both sides, then grants one sample's time to every counter; it changes the AY
alone, registers and configuration excepted (rules R170, R172 to R174, R178; the free value's counter is the model's own,
notes/assumptions/6.md). While the sample rate is 0 the host operation is refused (the model's choice,
notes/assumptions/9.md). -/
def Obligations.AySampleStep : Prop :=
  ∀ (s : State) (rest : List HostOp), s.performing .aySample rest →
    (s.ay.sampleRateHz = 0 → step s = .refused .aySampleRateZero) ∧
    (s.ay.sampleRateHz ≠ 0 →
      let a := s.ay
      let turned (c : AyChannel) : AyTone :=
        { counter := (a.tone c).counter % a.tonePeriod c
          phase := (a.tone c).phase ^^ decide ((a.tone c).counter / a.tonePeriod c % 2 = 1) }
      let g := turns Ay.envTick (a.envCounter / a.envPeriod) { a with
        toneA := turned .A, toneB := turned .B, toneC := turned .C
        noiseCounter := a.noiseCounter % a.noisePeriod
        noiseLfsr := turns ayNoiseShift (a.noiseCounter / a.noisePeriod) a.noiseLfsr
        envCounter := a.envCounter % a.envPeriod }
      let granted (c : AyTone) : AyTone := { c with counter := c.counter + a.clockHz }
      ∃ t out, step s = .next t ∧ t.cpu = s.cpu ∧ t.bus = s.bus ∧ t.apu = s.apu ∧ t.ay = a.sample ∧
        t.ay = { g with
          toneA := granted g.toneA, toneB := granted g.toneB, toneC := granted g.toneC
          noiseCounter := g.noiseCounter + a.clockHz, envCounter := g.envCounter + a.clockHz
          freeCount := if g.envLevel = none then a.freeCount + 1 else a.freeCount } ∧
        t.ay.regs = a.regs ∧ t.ay.chipType = a.chipType ∧ t.ay.flags = a.flags ∧ t.ay.clockHz = a.clockHz ∧
        t.ay.sampleRateHz = a.sampleRateHz ∧ t.ay.volumePercent = a.volumePercent ∧
        out = min 0xFFFF (g.channelAmp .A + g.channelAmp .B + g.channelAmp .C) ∧
        t.host = { s.host with
          queue := rest, results := .aySample (BitVec.ofNat 32 (out * 0x10000 + out)) :: s.host.results })

/-! ## The host -/

/-- `call(addr, n)` saves `sp` as the stop marker, pushes `pc - 1` as a JSR does, and jumps, whatever the run is for. The
run ends with 0 when the budget is used up, whatever the state; else with 1 when `sp` is at the stop marker; only the host
sees it, no instruction runs, and the host goes on as the run's purpose says (rules R343 to R345, R361, R362, R366; that a
failed boot or PLAY drops the queue is notes/assumptions/19.md). The NSF boot is the sequence of rule R361 (the low 8 bits
of its track number: notes/assumptions/28.md) and a PLAY tick the call of rule R362. -/
def Obligations.CallAndReturn : Prop :=
  (∀ (s : State) (addr : Word) (n : Option Nat) (p : RunPurpose) (rest : List HostOp), s.memoryOk →
    s.performing (.call addr n p) rest →
    let r := s.cpu.pc - 1
    ∃ t, step s = .next t ∧ t.cpu = { s.cpu with sp := s.cpu.sp - 2, pc := addr, stopSp := s.cpu.sp } ∧
      (memRead t (stackAddr (s.cpu.sp - 1))).toNat = r.toNat / 0x100 ∧
      (memRead t (stackAddr (s.cpu.sp - 2))).toNat = r.toNat % 0x100 ∧
      (∀ a, ¬ SameRamByte a (stackAddr (s.cpu.sp - 1)) → ¬ SameRamByte a (stackAddr (s.cpu.sp - 2)) →
        memRead t a = memRead s a) ∧
      SameCartridge s t ∧ t.apu = s.apu ∧ t.ay = s.ay ∧
      t.host = { s.host with queue := rest, run := some { budget := n, purpose := p } }) ∧
  (∀ (s : State) (r : Run), s.host.run = some r →
    (r.budget = some 0 → step s = .next { s with host := s.host.afterRun r.purpose 0 }) ∧
    (r.budget ≠ some 0 → s.cpu.sp = s.cpu.stopSp →
      step s = .next { s with host := s.host.afterRun r.purpose 1 })) ∧
  (∀ (s : State) (h : NsfHeader) (track : Nat) (rest : List HostOp), s.performing (.nsfBoot h track) rest →
    let zero (base n : Nat) : List HostOp := (List.range n).map fun i => .busWrite (BitVec.ofNat 16 (base + i)) 0
    step s = .next (s.withQueue (
      [.apuReset] ++
      (if ∀ i : Fin 8, h.bankSwitch[i] = 0 then []
        else (List.finRange 8).map fun i => .busWrite (BitVec.ofNat 16 (0x5FF8 + i.val)) h.bankSwitch[i]) ++
      zero 0 0x0800 ++ zero 0x4000 0x14 ++
      [.busWrite 0x4015 0x00, .busWrite 0x4015 0x0F, .busWrite 0x4017 0x40,
        .setA (BitVec.ofNat 8 (if track < h.songIndex then track else 0)), .setX 0, .setSp 0xEF,
        .call h.initAddress none .boot] ++ rest))) ∧
  ∀ (s : State) (h : NsfHeader) (rest : List HostOp), s.performing (.nsfPlay h) rest →
    step s = .next (s.withQueue
      (.call h.playAddress (some 20000) (.play (44100 * h.ntscPlaySpeed / 1000000)) :: rest))

/-- The source's scenario: a routine in ROM that is a single RTS. With budget 2 the call returns 1 with `pc` and `sp`
as they were; with budget 1 it returns 0, and a `resume(1)` then returns 1 with no instruction run (rules R343 to
R346). -/
def Obligations.SingleRtsCall : Prop :=
  ∀ (s : State) (addr : Word), s.memoryOk → 0x8000 ≤ addr.toNat → memRead s addr = 0x60 →
    let done (s : State) : Cpu := { s.cpu with stopSp := s.cpu.sp }
    (s.performing (.call addr (some 2) .plain) [] →
      ∃ t u v, step s = .next t ∧ step t = .next u ∧ step u = .next v ∧ v.cpu = done s ∧
        v.host = { s.host with queue := [], run := none, results := .status 1 :: s.host.results }) ∧
    (s.performing (.call addr (some 1) .plain) [.resume (some 1)] →
      ∃ t u v w x, step s = .next t ∧ step t = .next u ∧ step u = .next v ∧ step v = .next w ∧ step w = .next x ∧
        x.cpu = done s ∧
        x.host = { s.host with queue := [], run := none, results := .status 1 :: .status 0 :: s.host.results })

/-- `reset()` and `power()` of the whole block: the APU's and the AY's registers and generators at their reset values,
volumes, clock rates, chip type and blocks kept, banking off; `reset()` keeps RAM and battery RAM, `power()` zeroes
them; both are idempotent (rules R38, R47, R59, R351, R410, R415). The CPU's values are the model's choice
(notes/assumptions/1.md), and that `power()` resets the AY too is notes/assumptions/12.md. -/
def Obligations.ResetAndPower : Prop :=
  ∀ (s : State) (rest : List HostOp) (power : Bool), s.performing (if power then .power else .reset) rest →
    ∃ t, step s = .next t ∧ t.cpu = State.reset.cpu ∧ t.host = { s.host with queue := rest } ∧
      t.apu = { State.reset.apu with volumePercent := s.apu.volumePercent } ∧
      t.ay = { State.reset.ay with
        chipType := s.ay.chipType, flags := s.ay.flags, clockHz := s.ay.clockHz, sampleRateHz := s.ay.sampleRateHz,
        volumePercent := s.ay.volumePercent, freeCount := s.ay.freeCount } ∧
      t.bus.bankingEnabled = false ∧ (∀ i, t.bus.bankReg i = 0) ∧ t.bus.blocks = s.bus.blocks ∧
      t.bus.mapperBase = s.bus.mapperBase ∧
      (∀ a : Word, a.toNat ≤ 0x1FFF ∨ (0x6000 ≤ a.toNat ∧ a.toNat ≤ 0x7FFF) →
        memRead t a = if power then 0 else memRead s a) ∧
      ∃ u, step (t.withQueue [if power then .power else .reset]) = .next u ∧ u = t.withQueue []

/-! ## Invariants -/

/-- The machine right after reset: every field of the APU and of the AY as rules R38 and R47 have it, default volumes and
sample rate, banking off, no block, memory zero (rules R59, R411); and it meets the invariants stated below. The CPU's
values are the model's choice (notes/assumptions/1.md), as are the AY's chip type, flags and clock before the host sets
them (notes/assumptions/5.md). -/
def Obligations.ResetState : Prop :=
  let s := State.reset
  let silent : Channel :=
    { counter := 0, sequencer := 0, lenCounter := 0, linearCounter := 0, linearReloadFlag := false, decayCounter := 0
      divider := 0, updateEnvelope := false, volume := 0, output := 0, sweepCounter := 0 }
  s.cpu = { a := 0, x := 0, y := 0, sp := 0xFF, p := 0, pc := 0, stopSp := 0xFF } ∧
    (∀ i, s.apu.reg i = 0) ∧ (∀ k, s.apu.channel k = silent) ∧
    s.apu.dmcActive = false ∧ s.apu.dmcAddr = 0 ∧ s.apu.dmcLen = 0 ∧ s.apu.dmcBuffer = 0 ∧ s.apu.dmcIrqFlag = false ∧
    s.apu.dmcDelta = 0 ∧ s.apu.frames = 0 ∧ s.apu.quarter = false ∧ s.apu.half = false ∧ s.apu.full = false ∧
    s.apu.lastFrameCounter = 0 ∧ s.apu.noiseLfsr = 1 ∧ s.apu.volumePercent = 100 ∧
    (∀ i, s.ay.read i = 0) ∧ (∀ c, s.ay.tone c = { counter := 0, phase := false }) ∧
    s.ay.noiseCounter = 0 ∧ s.ay.noiseLfsr = 1 ∧ s.ay.envCounter = 0 ∧ s.ay.envPos = 0 ∧ s.ay.envHolding = false ∧
    s.ay.envRamp = false ∧ s.ay.chipType = 0 ∧ s.ay.flags = 0 ∧ s.ay.clockHz = 0 ∧ s.ay.sampleRateHz = 44100 ∧
    s.ay.volumePercent = 100 ∧
    s.bus.bankingEnabled = false ∧ (∀ i, s.bus.bankReg i = 0) ∧ s.bus.blocks = [] ∧
    (∀ a : Word, a.toNat ≤ 0x1FFF → memRead s a = 0) ∧
    (∀ a : Word, 0x6000 ≤ a.toNat → a.toNat ≤ 0x7FFF → memRead s a = 0) ∧
    s.memoryOk ∧ s.blocksOk ∧ s.noiseOk ∧ s.apu.ok

/-- Every step keeps the stored memory in its canonical form (notes/assumptions/2.md), at most four blocks with the
mapper's base the least page base among them (rule R58), and both noise registers away from zero (rules R37 (c), R173). -/
def Obligations.StepKeepsStored : Prop :=
  ∀ s t : State, step s = .next t →
    (s.memoryOk → t.memoryOk) ∧ (s.blocksOk → t.blocksOk) ∧ (s.noiseOk → t.noiseOk)

/-- Every step keeps the APU's invariants: the frame phase below its mode's length, no length left in a disabled
channel, bytes left to fetch in a playing DMC, and the ranges of the channel record's numbers (rules R31, R37, R220,
R252). -/
def Obligations.StepKeepsApu : Prop := ∀ s t : State, step s = .next t → s.apu.ok → t.apu.ok

end Statements
end

