-- ==== Sys2Proof/Laws/Memory.lean ====
section
/-! SUPPORT. The stored memory: a read after a write, the writes elsewhere, and the canonical form, which every
memory operation keeps. -/

namespace Sys2Proof.Machine

/-! ## Reading after writing -/

/-- The addresses of the list are strictly rising: the first half of the canonical form. -/
def Memory.rises (m : Memory) : Bool :=
  match m with
  | [] => true
  | (a, _) :: rest => Memory.risesFrom a rest

theorem Memory.rises_of_risesFrom {m : Memory} {low : Nat} (h : Memory.risesFrom low m = true) :
    Memory.rises m = true := by
  cases m with
  | nil => rfl
  | cons c rest =>
    simp only [Memory.risesFrom, Bool.and_eq_true, decide_eq_true_eq] at h
    exact h.2

/-- A cell below every listed one is unlisted. -/
theorem Memory.get_below (m : Memory) (b j : Nat) (h : Memory.risesFrom b m = true) (hj : j ≤ b) :
    Memory.get m j = unlistedByte := by
  induction m generalizing b with
  | nil => rfl
  | cons c rest ih =>
    obtain ⟨a, w⟩ := c
    simp only [Memory.risesFrom, Bool.and_eq_true, decide_eq_true_eq] at h
    simp only [Memory.get]
    rw [if_neg (by omega)]
    exact ih a h.2 (by omega)

theorem Memory.get_put_same (m : Memory) (k : Nat) (v : Byte) (h : Memory.rises m = true) :
    Memory.get (Memory.put m k v) k = v := by
  induction m with
  | nil =>
    unfold Memory.put
    split <;> simp_all [Memory.get]
  | cons c rest ih =>
    obtain ⟨a, w⟩ := c
    simp only [Memory.rises] at h
    simp only [Memory.put]
    split
    · split
      · simp only [Memory.get]
        rw [if_neg (by omega), Memory.get_below rest a k h (by omega)]
        simp_all
      · simp [Memory.get]
    · split
      · rename_i hka
        subst hka
        split
        · rw [Memory.get_below rest k k h (by omega)]
          simp_all
        · simp [Memory.get]
      · simp only [Memory.get]
        rw [if_neg (by omega)]
        exact ih (Memory.rises_of_risesFrom h)

theorem Memory.get_put_other (m : Memory) (k j : Nat) (v : Byte) (hj : j ≠ k) :
    Memory.get (Memory.put m k v) j = Memory.get m j := by
  induction m with
  | nil =>
    unfold Memory.put
    split
    · rfl
    · simp only [Memory.get]
      rw [if_neg (by omega)]
  | cons c rest ih =>
    obtain ⟨a, w⟩ := c
    simp only [Memory.put]
    split
    · split
      · rfl
      · simp only [Memory.get]
        rw [if_neg (by omega)]
    · split
      · rename_i hka
        subst hka
        split
        · simp only [Memory.get]
          rw [if_neg (by omega)]
        · simp only [Memory.get]
          rw [if_neg (by omega), if_neg (by omega)]
      · simp only [Memory.get, ih]

/-! ## The canonical form -/

theorem Memory.risesFrom_mono {m : Memory} {low high : Nat} (h : Memory.risesFrom high m = true) (hl : low ≤ high) :
    Memory.risesFrom low m = true := by
  cases m with
  | nil => rfl
  | cons c rest =>
    simp only [Memory.risesFrom, Bool.and_eq_true, decide_eq_true_eq] at h ⊢
    exact ⟨by omega, h.2⟩

theorem Memory.put_rises (m : Memory) (low k : Nat) (v : Byte) (h : Memory.risesFrom low m = true) (hk : low < k) :
    Memory.risesFrom low (Memory.put m k v) = true := by
  induction m generalizing low with
  | nil =>
    unfold Memory.put
    split <;> simp [Memory.risesFrom, hk]
  | cons c rest ih =>
    obtain ⟨a, w⟩ := c
    simp only [Memory.risesFrom, Bool.and_eq_true, decide_eq_true_eq] at h
    simp only [Memory.put]
    split
    · split <;> simp [Memory.risesFrom, *]
    · split
      · split
        · exact Memory.risesFrom_mono h.2 (by omega)
        · simp only [Memory.risesFrom, Bool.and_eq_true, decide_eq_true_eq]
          exact ⟨hk, by simp_all⟩
      · simp only [Memory.risesFrom, Bool.and_eq_true, decide_eq_true_eq]
        exact ⟨h.1, ih a h.2 (by omega)⟩

/-- A condition on the entries that the new entry meets holds after the write. -/
theorem Memory.put_all (m : Memory) (k : Nat) (v : Byte) (p : Host.Cell → Bool) (h : m.all p = true)
    (hk : v ≠ unlistedByte → p (k, v) = true) : (Memory.put m k v).all p = true := by
  induction m with
  | nil =>
    unfold Memory.put
    split
    · rfl
    · simp only [List.all_cons, List.all_nil, Bool.and_true]
      exact hk ‹_›
  | cons c rest ih =>
    obtain ⟨a, w⟩ := c
    simp only [List.all_cons, Bool.and_eq_true] at h
    simp only [Memory.put]
    split
    · split
      · simp [h.1, h.2]
      · simp only [List.all_cons, Bool.and_eq_true]
        exact ⟨hk ‹_›, h⟩
    · split
      · split
        · exact h.2
        · simp only [List.all_cons, Bool.and_eq_true]
          exact ⟨hk ‹_›, h.2⟩
      · simp only [List.all_cons, Bool.and_eq_true]
        exact ⟨h.1, ih h.2⟩

theorem Memory.wf_iff (m : Memory) :
    Memory.wf m = true ↔ Memory.rises m = true ∧ (m.all fun c => isCell c.1 && c.2 != unlistedByte) = true := by
  cases m <;> simp [Memory.wf, Memory.rises]

theorem Memory.wf_rises {m : Memory} (h : Memory.wf m = true) : Memory.rises m = true := ((Memory.wf_iff m).1 h).1

theorem Memory.put_wf (m : Memory) (k : Nat) (v : Byte) (h : Memory.wf m = true) (hk : isCell k = true) :
    Memory.wf (Memory.put m k v) = true := by
  rw [Memory.wf_iff] at h ⊢
  refine ⟨?_, Memory.put_all m k v _ h.2 (fun hv => by simp [hk, hv])⟩
  obtain ⟨h, -⟩ := h
  cases m with
  | nil =>
    unfold Memory.put
    split <;> rfl
  | cons c rest =>
    obtain ⟨a, w⟩ := c
    simp only [Memory.rises] at h
    simp only [Memory.put]
    split
    · split
      · exact h
      · simp only [Memory.rises, Memory.risesFrom, Bool.and_eq_true, decide_eq_true_eq]
        exact ⟨by omega, h⟩
    · split
      · rename_i hka
        subst hka
        split
        · cases rest with
          | nil => rfl
          | cons d rest =>
            simp only [Memory.risesFrom, Bool.and_eq_true, decide_eq_true_eq] at h
            exact h.2
        · exact h
      · exact Memory.put_rises rest a k v h (by omega)

theorem reset_memory_wf : Memory.wf State.reset.bus.mem = true := rfl

end Sys2Proof.Machine
end

