-- ==== Sys2Proof/Laws/State.lean ====
section
/-! SUPPORT. What each update of the state changes and what it leaves: one lemma per field, so that no proof unfolds
a record update. -/

namespace Sys2Proof.Machine

/-! ## Updates of the CPU's registers -/

@[simp] theorem advance_cpu (n : Nat) (s : State) :
    (advance n s).cpu = { s.cpu with pc := s.cpu.pc + BitVec.ofNat 16 n } := rfl
@[simp] theorem advance_bus (n : Nat) (s : State) : (advance n s).bus = s.bus := rfl
@[simp] theorem advance_apu (n : Nat) (s : State) : (advance n s).apu = s.apu := rfl
@[simp] theorem advance_ay (n : Nat) (s : State) : (advance n s).ay = s.ay := rfl
@[simp] theorem advance_host (n : Nat) (s : State) : (advance n s).host = s.host := rfl
@[simp] theorem memRead_advance (n : Nat) (s : State) (addr : Word) : memRead (advance n s) addr = memRead s addr := rfl

@[simp] theorem setPc_cpu (target : Word) (s : State) :
    (setPc target s).cpu = { s.cpu with pc := target } := rfl
@[simp] theorem setPc_bus (target : Word) (s : State) : (setPc target s).bus = s.bus := rfl
@[simp] theorem setPc_apu (target : Word) (s : State) : (setPc target s).apu = s.apu := rfl
@[simp] theorem setPc_ay (target : Word) (s : State) : (setPc target s).ay = s.ay := rfl
@[simp] theorem setPc_host (target : Word) (s : State) : (setPc target s).host = s.host := rfl
@[simp] theorem memRead_setPc (target : Word) (s : State) (addr : Word) : memRead (setPc target s) addr = memRead s addr := rfl

@[simp] theorem setP_cpu (v : Byte) (s : State) :
    (setP v s).cpu = { s.cpu with p := v } := rfl
@[simp] theorem setP_bus (v : Byte) (s : State) : (setP v s).bus = s.bus := rfl
@[simp] theorem setP_apu (v : Byte) (s : State) : (setP v s).apu = s.apu := rfl
@[simp] theorem setP_ay (v : Byte) (s : State) : (setP v s).ay = s.ay := rfl
@[simp] theorem setP_host (v : Byte) (s : State) : (setP v s).host = s.host := rfl
@[simp] theorem memRead_setP (v : Byte) (s : State) (addr : Word) : memRead (setP v s) addr = memRead s addr := rfl

@[simp] theorem setA_cpu (v : Byte) (s : State) :
    (setA v s).cpu = { s.cpu with a := v } := rfl
@[simp] theorem setA_bus (v : Byte) (s : State) : (setA v s).bus = s.bus := rfl
@[simp] theorem setA_apu (v : Byte) (s : State) : (setA v s).apu = s.apu := rfl
@[simp] theorem setA_ay (v : Byte) (s : State) : (setA v s).ay = s.ay := rfl
@[simp] theorem setA_host (v : Byte) (s : State) : (setA v s).host = s.host := rfl
@[simp] theorem memRead_setA (v : Byte) (s : State) (addr : Word) : memRead (setA v s) addr = memRead s addr := rfl

@[simp] theorem loadA_cpu (v : Byte) (s : State) :
    (loadA v s).cpu = { s.cpu with a := v, p := setNZ v s.cpu.p } := rfl
@[simp] theorem loadA_bus (v : Byte) (s : State) : (loadA v s).bus = s.bus := rfl
@[simp] theorem loadA_apu (v : Byte) (s : State) : (loadA v s).apu = s.apu := rfl
@[simp] theorem loadA_ay (v : Byte) (s : State) : (loadA v s).ay = s.ay := rfl
@[simp] theorem loadA_host (v : Byte) (s : State) : (loadA v s).host = s.host := rfl
@[simp] theorem memRead_loadA (v : Byte) (s : State) (addr : Word) : memRead (loadA v s) addr = memRead s addr := rfl

@[simp] theorem loadX_cpu (v : Byte) (s : State) :
    (loadX v s).cpu = { s.cpu with x := v, p := setNZ v s.cpu.p } := rfl
@[simp] theorem loadX_bus (v : Byte) (s : State) : (loadX v s).bus = s.bus := rfl
@[simp] theorem loadX_apu (v : Byte) (s : State) : (loadX v s).apu = s.apu := rfl
@[simp] theorem loadX_ay (v : Byte) (s : State) : (loadX v s).ay = s.ay := rfl
@[simp] theorem loadX_host (v : Byte) (s : State) : (loadX v s).host = s.host := rfl
@[simp] theorem memRead_loadX (v : Byte) (s : State) (addr : Word) : memRead (loadX v s) addr = memRead s addr := rfl

@[simp] theorem loadY_cpu (v : Byte) (s : State) :
    (loadY v s).cpu = { s.cpu with y := v, p := setNZ v s.cpu.p } := rfl
@[simp] theorem loadY_bus (v : Byte) (s : State) : (loadY v s).bus = s.bus := rfl
@[simp] theorem loadY_apu (v : Byte) (s : State) : (loadY v s).apu = s.apu := rfl
@[simp] theorem loadY_ay (v : Byte) (s : State) : (loadY v s).ay = s.ay := rfl
@[simp] theorem loadY_host (v : Byte) (s : State) : (loadY v s).host = s.host := rfl
@[simp] theorem memRead_loadY (v : Byte) (s : State) (addr : Word) : memRead (loadY v s) addr = memRead s addr := rfl

@[simp] theorem afterPull_cpu (s : State) :
    (afterPull s).cpu = { s.cpu with sp := s.cpu.sp + 1 } := rfl
@[simp] theorem afterPull_bus (s : State) : (afterPull s).bus = s.bus := rfl
@[simp] theorem afterPull_apu (s : State) : (afterPull s).apu = s.apu := rfl
@[simp] theorem afterPull_ay (s : State) : (afterPull s).ay = s.ay := rfl
@[simp] theorem afterPull_host (s : State) : (afterPull s).host = s.host := rfl
@[simp] theorem memRead_afterPull (s : State) (addr : Word) : memRead (afterPull s) addr = memRead s addr := rfl

@[simp] theorem addToA_cpu (m : Byte) (s : State) :
    (addToA m s).cpu = { s.cpu with a := addResult s.cpu.a m s.cpu.p, p := addFlags s.cpu.a m s.cpu.p } := rfl
@[simp] theorem addToA_bus (m : Byte) (s : State) : (addToA m s).bus = s.bus := rfl
@[simp] theorem addToA_apu (m : Byte) (s : State) : (addToA m s).apu = s.apu := rfl
@[simp] theorem addToA_ay (m : Byte) (s : State) : (addToA m s).ay = s.ay := rfl
@[simp] theorem addToA_host (m : Byte) (s : State) : (addToA m s).host = s.host := rfl
@[simp] theorem memRead_addToA (m : Byte) (s : State) (addr : Word) : memRead (addToA m s) addr = memRead s addr := rfl

/-! ## Updates of the host -/

@[simp] theorem emit_host (r : HostResult) (s : State) :
    (emit r s).host = { s.host with results := r :: s.host.results } := rfl
@[simp] theorem emit_cpu (r : HostResult) (s : State) : (emit r s).cpu = s.cpu := rfl
@[simp] theorem emit_bus (r : HostResult) (s : State) : (emit r s).bus = s.bus := rfl
@[simp] theorem emit_apu (r : HostResult) (s : State) : (emit r s).apu = s.apu := rfl
@[simp] theorem emit_ay (r : HostResult) (s : State) : (emit r s).ay = s.ay := rfl

@[simp] theorem prepend_host (ops : List HostOp) (s : State) :
    (prepend ops s).host = { s.host with queue := ops ++ s.host.queue } := rfl
@[simp] theorem prepend_cpu (ops : List HostOp) (s : State) : (prepend ops s).cpu = s.cpu := rfl
@[simp] theorem prepend_bus (ops : List HostOp) (s : State) : (prepend ops s).bus = s.bus := rfl
@[simp] theorem prepend_apu (ops : List HostOp) (s : State) : (prepend ops s).apu = s.apu := rfl
@[simp] theorem prepend_ay (ops : List HostOp) (s : State) : (prepend ops s).ay = s.ay := rfl

@[simp] theorem hostStop_host (s : State) :
    (hostStop s).host = { s.host with queue := [], run := none, stopped := true } := rfl
@[simp] theorem hostStop_cpu (s : State) : (hostStop s).cpu = s.cpu := rfl
@[simp] theorem hostStop_bus (s : State) : (hostStop s).bus = s.bus := rfl
@[simp] theorem hostStop_apu (s : State) : (hostStop s).apu = s.apu := rfl
@[simp] theorem hostStop_ay (s : State) : (hostStop s).ay = s.ay := rfl

@[simp] theorem startRun_host (n : Option Nat) (q : RunPurpose) (s : State) :
    (startRun n q s).host = { s.host with run := some { budget := n, purpose := q } } := rfl
@[simp] theorem startRun_cpu (n : Option Nat) (q : RunPurpose) (s : State) : (startRun n q s).cpu = s.cpu := rfl
@[simp] theorem startRun_bus (n : Option Nat) (q : RunPurpose) (s : State) : (startRun n q s).bus = s.bus := rfl
@[simp] theorem startRun_apu (n : Option Nat) (q : RunPurpose) (s : State) : (startRun n q s).apu = s.apu := rfl
@[simp] theorem startRun_ay (n : Option Nat) (q : RunPurpose) (s : State) : (startRun n q s).ay = s.ay := rfl

/-- `finishRun` touches nothing but the host. -/
theorem finishRun_block (n : Int) (r : Run) (s : State) :
    (finishRun n r s).cpu = s.cpu ∧ (finishRun n r s).bus = s.bus ∧ (finishRun n r s).apu = s.apu ∧
      (finishRun n r s).ay = s.ay := by
  unfold finishRun
  cases r.purpose <;> simp only <;> (try split) <;> exact ⟨rfl, rfl, rfl, rfl⟩

end Sys2Proof.Machine
end

