-- ==== Sys2Proof/Laws/Bus.lean ====
section
/-! SUPPORT. The bus: which row of the map an address falls in, what one write can do, what is read back, and the
stack, which is always RAM. -/

namespace Sys2Proof.Machine

/-! ## The rows of the bus map -/

theorem region_ram {addr : Word} (h : addr.toNat ≤ 0x1FFF) : region addr = .ram (addr.toNat % 0x0800) := by
  simp only [region]
  rw [if_pos h]

theorem region_low_hole {addr : Word} (h : 0x2000 ≤ addr.toNat) (h' : addr.toNat ≤ 0x3FFF) : region addr = .hole := by
  simp only [region]
  rw [if_neg (by omega), if_pos h']

theorem region_apu {addr : Word} (h : 0x4000 ≤ addr.toNat) (h' : addr.toNat ≤ 0x401F) :
    region addr = .apu (addr.setWidth 5) := by
  simp only [region]
  rw [if_neg (by omega), if_neg (by omega), if_pos h']

theorem region_high_hole {addr : Word} (h : 0x4020 ≤ addr.toNat) (h' : addr.toNat ≤ 0x4FFF) :
    region addr = .hole := by
  simp only [region]
  rw [if_neg (by omega), if_neg (by omega), if_neg (by omega), if_pos h']

theorem region_bank {addr : Word} (h : 0x5000 ≤ addr.toNat) (h' : addr.toNat ≤ 0x5FFF) :
    region addr = .bank (addr.setWidth 3) := by
  simp only [region]
  rw [if_neg (by omega), if_neg (by omega), if_neg (by omega), if_neg (by omega), if_pos h']

theorem region_bram {addr : Word} (h : 0x6000 ≤ addr.toNat) (h' : addr.toNat ≤ 0x7FFF) :
    region addr = .bram addr.toNat := by
  simp only [region]
  rw [if_neg (by omega), if_neg (by omega), if_neg (by omega), if_neg (by omega), if_neg (by omega), if_pos h']

theorem region_rom {addr : Word} (h : 0x8000 ≤ addr.toNat) (h' : addr.toNat ≤ 0xFFF9) : region addr = .rom := by
  simp only [region]
  rw [if_neg (by omega), if_neg (by omega), if_neg (by omega), if_neg (by omega), if_neg (by omega),
    if_neg (by omega), if_pos h']

theorem region_vectors {addr : Word} (h : 0xFFFA ≤ addr.toNat) : region addr = .vectors := by
  simp only [region]
  rw [if_neg (by omega), if_neg (by omega), if_neg (by omega), if_neg (by omega), if_neg (by omega),
    if_neg (by omega), if_neg (by omega)]

/-- The key of a RAM row is a stored cell. -/
theorem isCell_of_ram {addr : Word} {k : Nat} (h : region addr = .ram k) : isCell k = true := by
  simp only [region] at h
  repeat' split at h
  all_goals first | (cases h; simp only [isCell]; simp; omega) | cases h

/-- The key of a battery RAM row is a stored cell. -/
theorem isCell_of_bram {addr : Word} {k : Nat} (h : region addr = .bram k) : isCell k = true := by
  simp only [region] at h
  repeat' split at h
  all_goals first | (cases h; simp only [isCell]; simp; omega) | cases h

/-! ## One write -/

/-- All that a bus write can do. -/
theorem memWrite_cases (s : State) (addr : Word) (v : Byte) :
    (∃ k, isCell k = true ∧ (region addr = .ram k ∨ region addr = .bram k) ∧
      memWrite s addr v = { s with bus := { s.bus with mem := Memory.put s.bus.mem k v } }) ∨
    (∃ i, region addr = .apu i ∧ memWrite s addr v = { s with apu := s.apu.write i v }) ∨
    (∃ i, region addr = .bank i ∧ memWrite s addr v = { s with bus := s.bus.writeBank i v }) ∨
    ((region addr = .hole ∨ region addr = .rom ∨ region addr = .vectors) ∧ memWrite s addr v = s) := by
  unfold memWrite
  cases h : region addr with
  | ram k => exact .inl ⟨k, isCell_of_ram h, .inl rfl, rfl⟩
  | bram k => exact .inl ⟨k, isCell_of_bram h, .inr rfl, rfl⟩
  | apu i => exact .inr (.inl ⟨i, rfl, rfl⟩)
  | bank i => exact .inr (.inr (.inl ⟨i, rfl, rfl⟩))
  | hole => exact .inr (.inr (.inr ⟨.inl rfl, rfl⟩))
  | rom => exact .inr (.inr (.inr ⟨.inr (.inl rfl), rfl⟩))
  | vectors => exact .inr (.inr (.inr ⟨.inr (.inr rfl), rfl⟩))

@[simp] theorem memWrite_cpu (s : State) (addr : Word) (v : Byte) : (memWrite s addr v).cpu = s.cpu := by
  unfold memWrite
  split <;> rfl

@[simp] theorem memWrite_ay (s : State) (addr : Word) (v : Byte) : (memWrite s addr v).ay = s.ay := by
  unfold memWrite
  split <;> rfl

@[simp] theorem memWrite_host (s : State) (addr : Word) (v : Byte) : (memWrite s addr v).host = s.host := by
  unfold memWrite
  split <;> rfl

@[simp] theorem memWrite_blocks (s : State) (addr : Word) (v : Byte) :
    (memWrite s addr v).bus.blocks = s.bus.blocks := by
  unfold memWrite
  split <;> rfl

@[simp] theorem memWrite_mapperBase (s : State) (addr : Word) (v : Byte) :
    (memWrite s addr v).bus.mapperBase = s.bus.mapperBase := by
  unfold memWrite
  split <;> rfl

/-- A write keeps the stored memory's canonical form. -/
theorem memWrite_memoryOk (s : State) (addr : Word) (v : Byte) (h : s.memoryOk) : (memWrite s addr v).memoryOk := by
  rcases memWrite_cases s addr v with ⟨k, hk, -, e⟩ | ⟨i, -, e⟩ | ⟨i, -, e⟩ | ⟨-, e⟩
  · rw [e]
    exact Memory.put_wf _ k v h hk
  all_goals rw [e]; exact h

/-- A read sees only the bus. -/
theorem memRead_of_bus {s t : State} (h : t.bus = s.bus) (addr : Word) : memRead t addr = memRead s addr := by
  simp only [memRead, h]

/-- A write to a stored cell changes what reads of that cell give, and no other read. -/
theorem read_put (b : Bus) (k : Nat) (v : Byte) (a : Word) :
    Bus.read { b with mem := Memory.put b.mem k v } a =
      if region a = .ram k ∨ region a = .bram k then Memory.get (Memory.put b.mem k v) k else b.read a := by
  unfold Bus.read
  cases h : region a with
  | ram j =>
    by_cases hj : j = k
    · simp [hj]
    · simp [hj, Memory.get_put_other]
  | bram j =>
    by_cases hj : j = k
    · simp [hj]
    · simp [hj, Memory.get_put_other]
  | rom => rfl
  | vectors => rfl
  | hole => rfl
  | apu i => rfl
  | bank i => rfl

/-! ## Bank registers -/

theorem bankReg_writeBank (b : Bus) (i j : BitVec 3) (v : Byte) :
    (b.writeBank i v).bankReg j = if j = i then v else b.bankReg j := by
  by_cases h : j = i
  · subst h
    simp [Bus.writeBank, Bus.bankReg]
  · have : i.toNat ≠ j.toNat := fun e => h (BitVec.eq_of_toNat_eq e.symm)
    simp [Bus.writeBank, Bus.bankReg, Vector.getElem_set_ne, h, this]

/-! ## The stack -/

theorem stackAddr_toNat (sp : Byte) : (stackAddr sp).toNat = 0x0100 + sp.toNat := by
  have := sp.isLt
  simp [stackAddr]
  omega

theorem region_stackAddr (sp : Byte) : region (stackAddr sp) = .ram (0x0100 + sp.toNat) := by
  have := sp.isLt
  rw [region_ram (by rw [stackAddr_toNat]; omega), stackAddr_toNat]
  congr 1
  omega

/-- A push stores one byte of RAM and moves `sp`, and does nothing else. -/
theorem push_eq (v : Byte) (s : State) :
    push v s =
      { s with
        cpu := { s.cpu with sp := s.cpu.sp - 1 }
        bus := { s.bus with mem := Memory.put s.bus.mem (0x0100 + (s.cpu.sp - 1).toNat) v } } := by
  simp only [push, memWrite, region_stackAddr]

@[simp] theorem push_cpu (v : Byte) (s : State) : (push v s).cpu = { s.cpu with sp := s.cpu.sp - 1 } := by
  rw [push_eq]

@[simp] theorem push_apu (v : Byte) (s : State) : (push v s).apu = s.apu := by
  rw [push_eq]

@[simp] theorem push_ay (v : Byte) (s : State) : (push v s).ay = s.ay := by
  rw [push_eq]

@[simp] theorem push_host (v : Byte) (s : State) : (push v s).host = s.host := by
  rw [push_eq]

theorem push_bus (v : Byte) (s : State) :
    (push v s).bus = { s.bus with mem := Memory.put s.bus.mem (0x0100 + (s.cpu.sp - 1).toNat) v } := by
  rw [push_eq]

theorem push_memoryOk (v : Byte) (s : State) (h : s.memoryOk) : (push v s).memoryOk :=
  memWrite_memoryOk _ _ _ h

/-- The pushed byte is read back at every mirror of its stack cell. -/
theorem memRead_push_same (v : Byte) (s : State) (a : Word) (h : s.memoryOk)
    (ha : SameRamByte a (stackAddr (s.cpu.sp - 1))) : memRead (push v s) a = v := by
  have hb := (s.cpu.sp - 1).isLt
  obtain ⟨h1, -, h3⟩ := ha
  rw [stackAddr_toNat] at h3
  simp only [memRead, push_bus, read_put, region_ram h1]
  rw [if_pos (.inl (by congr 1; omega))]
  exact Memory.get_put_same _ _ _ (Memory.wf_rises h)

/-- Every other read gives what it gave. -/
theorem memRead_push_other (v : Byte) (s : State) (a : Word) (ha : ¬ SameRamByte a (stackAddr (s.cpu.sp - 1))) :
    memRead (push v s) a = memRead s a := by
  have hb := (s.cpu.sp - 1).isLt
  simp only [memRead, push_bus, read_put]
  rw [if_neg]
  rintro (e | e)
  · by_cases h1 : a.toNat ≤ 0x1FFF
    · rw [region_ram h1] at e
      injection e with e
      exact ha ⟨h1, by rw [stackAddr_toNat]; omega, by rw [stackAddr_toNat]; omega⟩
    · simp only [region] at e
      repeat' split at e
      all_goals first | omega | cases e
  · simp only [region] at e
    repeat' split at e
    all_goals first | (injection e; omega) | cases e

/-! ## What one bus write does, whole -/

theorem region_ram_iff (a : Word) (k : Nat) : region a = .ram k ↔ a.toNat ≤ 0x1FFF ∧ a.toNat % 0x800 = k := by
  constructor
  · intro h
    simp only [region] at h
    repeat' split at h
    all_goals first | (injection h; exact ⟨by assumption, by assumption⟩) | cases h
  · rintro ⟨h, rfl⟩
    exact region_ram h

theorem region_bram_iff (a : Word) (k : Nat) :
    region a = .bram k ↔ (0x6000 ≤ a.toNat ∧ a.toNat ≤ 0x7FFF) ∧ a.toNat = k := by
  constructor
  · intro h
    simp only [region] at h
    repeat' split at h
    all_goals first | (injection h; exact ⟨⟨by omega, by omega⟩, by assumption⟩) | cases h
  · rintro ⟨⟨h, h'⟩, rfl⟩
    exact region_bram h h'

/-- After a cell is stored, its addresses read the byte and all others what they read before. -/
theorem memRead_put (s : State) (k : Nat) (v : Byte) (a : Word) (h : s.memoryOk) :
    memRead { s with bus := { s.bus with mem := Memory.put s.bus.mem k v } } a =
      if region a = .ram k ∨ region a = .bram k then v else memRead s a := by
  simp only [memRead, read_put]
  rw [Memory.get_put_same _ _ _ (Memory.wf_rises h)]

theorem memRead_bank (s : State) {a : Word} (h : 0x5000 ≤ a.toNat) (h' : a.toNat ≤ 0x5FFF) :
    memRead s a = s.bus.bankReg (a.setWidth 3) := by
  simp only [memRead, Bus.read, region_bank h h']

/-- One bus write does what the rows of rule R85 say, and nothing else. -/
theorem memWrite_stored (s : State) (addr : Word) (v : Byte) (h : s.memoryOk) :
    Stored addr v s (memWrite s addr v) := by
  unfold Stored
  split
  · rename_i h1
    have e : memWrite s addr v = { s with bus := { s.bus with mem := Memory.put s.bus.mem (addr.toNat % 0x800) v } } := by
      simp only [memWrite, region_ram h1]
    rw [e]
    refine ⟨?_, ?_, ⟨rfl, rfl, rfl, rfl⟩, rfl⟩
    · intro a ha
      rw [memRead_put s _ v a h, if_pos (.inl ((region_ram_iff _ _).2 ⟨ha.1, ha.2.2⟩))]
    · intro a ha
      rw [memRead_put s _ v a h, if_neg]
      rintro (e | e)
      · rw [region_ram_iff] at e; exact ha ⟨e.1, h1, e.2⟩
      · rw [region_bram_iff] at e; omega
  · split
    · rename_i h0 h1
      have e : memWrite s addr v = { s with apu := s.apu.write (addr.setWidth 5) v } := by
        simp only [memWrite, region_apu h1.1 h1.2]
      rw [e]; exact ⟨rfl, rfl, fun a => rfl⟩
    · split
      · rename_i h0 h01 h1
        have e : memWrite s addr v = { s with bus := s.bus.writeBank (addr.setWidth 3) v } := by
          simp only [memWrite, region_bank h1.1 h1.2]
        rw [e]
        refine ⟨fun i => bankReg_writeBank _ _ _ _, rfl, rfl, rfl, rfl, rfl, ?_, ?_⟩
        · intro a h2 h3
          rw [memRead_bank _ h2 h3, bankReg_writeBank, memRead_bank _ h2 h3]
          have : (a.setWidth 3 = addr.setWidth 3) ↔ a.toNat % 8 = addr.toNat % 8 := by
            rw [BitVec.toNat_eq]; simp
          simp [this]
        · intro a h2 h3
          simp only [memRead, Bus.read]
          cases hr : region a with
          | bank i =>
            simp only [region] at hr
            repeat' split at hr
            all_goals first | omega | cases hr
          | rom =>
            simp only [region] at hr
            repeat' split at hr
            all_goals first | omega | cases hr
          | _ => rfl
      · split
        · rename_i h0 h01 h02 h1
          have e : memWrite s addr v = { s with bus := { s.bus with mem := Memory.put s.bus.mem addr.toNat v } } := by
            simp only [memWrite, region_bram h1.1 h1.2]
          rw [e]
          refine ⟨?_, ?_, ⟨rfl, rfl, rfl, rfl⟩, rfl⟩
          · rw [memRead_put s _ v _ h, if_pos (.inr ((region_bram_iff _ _).2 ⟨h1, rfl⟩))]
          · intro a ha
            rw [memRead_put s _ v a h, if_neg]
            rintro (e | e)
            · rw [region_ram_iff] at e; omega
            · rw [region_bram_iff] at e; exact ha (BitVec.eq_of_toNat_eq e.2)
        · rename_i h0 h1 h2 h3
          have e : memWrite s addr v = s := by
            unfold memWrite
            cases hr : region addr <;> simp only [region] at hr <;> (repeat' split at hr) <;>
              first | rfl | omega | cases hr
          rw [e]; exact ⟨rfl, rfl, fun a => rfl⟩

/-- `Stored` is about bus and APU alone. -/
theorem Stored.congr {s s' t t' : State} {addr : Word} {v : Byte} (h : Stored addr v s t) (h1 : s'.bus = s.bus)
    (h2 : s'.apu = s.apu) (h3 : t'.bus = t.bus) (h4 : t'.apu = t.apu) : Stored addr v s' t' := by
  have r1 : ∀ a, memRead s' a = memRead s a := memRead_of_bus h1
  have r2 : ∀ a, memRead t' a = memRead t a := memRead_of_bus h3
  unfold Stored SameMemory SameCartridge at *
  simp only [r1, r2, h1, h2, h3, h4]
  exact h

/-- `OnlyCpu` from the five parts: the memory reads follow from the bus. -/
theorem OnlyCpu.of_parts {s t : State} {c : Cpu} (h1 : t.cpu = c) (h2 : t.bus = s.bus) (h3 : t.apu = s.apu)
    (h4 : t.ay = s.ay) (h5 : t.host = s.host) : OnlyCpu s t c :=
  ⟨h1, h2, h3, h4, h5, fun a => memRead_of_bus h2 a⟩

theorem SameCartridge.trans {s t u : State} (h : SameCartridge s t) (h' : SameCartridge t u) : SameCartridge s u := by
  unfold SameCartridge at *
  simp_all

@[simp] theorem effAddr_advance (n : Nat) (m : MemMode) (s : State) : effAddr m (advance n s) = effAddr m s := by
  cases m <;> rfl

/-! ## 16-bit numbers and the stack -/

theorem wordOf_toNat (lo hi : Byte) : (wordOf lo hi).toNat = lo.toNat + 0x100 * hi.toNat := by
  have h : ∀ a b : Nat, a < 2 ^ 8 → b <<< 8 ||| a = a + 0x100 * b := by
    intro a b h
    rw [← Nat.shiftLeft_add_eq_or_of_lt h, Nat.shiftLeft_eq]
    omega
  unfold wordOf
  rw [BitVec.toNat_append, h _ _ lo.isLt]

theorem highByte_toNat (w : Word) : (highByte w).toNat = w.toNat / 0x100 := by
  have := w.isLt
  simp [highByte, Nat.shiftRight_eq_div_pow]
  omega

theorem lowByte_toNat (w : Word) : (lowByte w).toNat = w.toNat % 0x100 := by
  simp [lowByte]

theorem sameRamByte_stackAddr (a b : Byte) : SameRamByte (stackAddr a) (stackAddr b) ↔ a = b := by
  have := a.isLt
  have := b.isLt
  simp only [SameRamByte, stackAddr_toNat]
  constructor
  · rintro ⟨_, _, h⟩
    apply BitVec.eq_of_toNat_eq
    omega
  · rintro rfl
    omega

theorem push_sameCartridge (v : Byte) (s : State) : SameCartridge s (push v s) := by
  simp [SameCartridge, push_bus]

/-- Everything a 16-bit push does: the high byte goes to the first byte below `sp`, the low byte to the second. -/
theorem push16_after (w : Word) (s : State) (h : s.memoryOk) :
    (push16 w s).cpu = { s.cpu with sp := s.cpu.sp - 2 } ∧
      (memRead (push16 w s) (stackAddr (s.cpu.sp - 1))).toNat = w.toNat / 0x100 ∧
      (memRead (push16 w s) (stackAddr (s.cpu.sp - 2))).toNat = w.toNat % 0x100 ∧
      OnlyStack [s.cpu.sp - 1, s.cpu.sp - 2] s (push16 w s) ∧ (push16 w s).memoryOk := by
  have e2 : s.cpu.sp - 1 - 1 = s.cpu.sp - 2 := by bv_omega
  have h1 := push_memoryOk (highByte w) s h
  refine ⟨by simp only [push16, push_cpu, e2], ?_, ?_,
    ⟨?_, .trans (push_sameCartridge _ _) (push_sameCartridge _ _), by simp [push16], by simp [push16],
      by simp [push16]⟩, push_memoryOk _ _ h1⟩
  · unfold push16
    rw [memRead_push_other, memRead_push_same _ _ _ h ((sameRamByte_stackAddr _ _).2 rfl), highByte_toNat]
    simp only [push_cpu, sameRamByte_stackAddr]
    bv_omega
  · unfold push16
    rw [memRead_push_same _ _ _ h1 (by simp only [push_cpu, sameRamByte_stackAddr]; exact e2.symm), lowByte_toNat]
  · intro a ha
    unfold push16
    rw [memRead_push_other _ _ _ (by simp only [push_cpu, e2]; exact ha _ (by simp)),
      memRead_push_other _ _ _ (ha _ (by simp))]

/-- The number a 16-bit pull gives: the low byte at `sp`, the high byte at the next one. -/
theorem pull16_toNat (s : State) :
    (pull16 s).toNat =
      (memRead s (stackAddr s.cpu.sp)).toNat + 0x100 * (memRead s (stackAddr (s.cpu.sp + 1))).toNat := by
  unfold pull16
  rw [wordOf_toNat]
  simp only [pullByte, memRead_afterPull, afterPull_cpu]

end Sys2Proof.Machine
end

