-- ==== Sys2Proof/Laws/Chips.lean ====
section
/-! SUPPORT. The chips: reading a register or a channel record after an update, the repeated loop body, and the
registers, which no sample changes. -/

namespace Sys2Proof.Machine

/-! ## The loops of the timers -/

theorem turns_succ_outer {α : Type} (f : α → α) (n : Nat) (x : α) : turns f (n + 1) x = f (turns f n x) := by
  induction n generalizing x with
  | zero => rfl
  | succ n ih => exact ih (f x)

/-- What holds before a loop and is kept by its body holds after it. -/
theorem turns_keeps {α : Type} (p : α → Prop) (f : α → α) (hf : ∀ x, p x → p (f x)) (n : Nat) (x : α) (hx : p x) :
    p (turns f n x) := by
  induction n generalizing x with
  | zero => exact hx
  | succ n ih => exact ih (f x) (hf x hx)

/-- A view that the body does not change is not changed by the loop. -/
theorem turns_view {α β : Type} (g : α → β) (f : α → α) (hf : ∀ x, g (f x) = g x) (n : Nat) (x : α) :
    g (turns f n x) = g x := by
  induction n generalizing x with
  | zero => rfl
  | succ n ih => exact (ih (f x)).trans (hf x)

/-! ## Registers and channel records of the APU -/

theorem reg_setReg (a : Apu) (i j : BitVec 5) (v : Byte) : (a.setReg i v).reg j = if j = i then v else a.reg j := by
  by_cases h : j = i
  · subst h
    simp [Apu.setReg, Apu.reg]
  · have : i.toNat ≠ j.toNat := fun e => h (BitVec.eq_of_toNat_eq e.symm)
    simp [Apu.setReg, Apu.reg, Vector.getElem_set_ne, h, this]

@[simp] theorem channel_setReg (a : Apu) (i : BitVec 5) (v : Byte) (k : ChannelId) :
    (a.setReg i v).channel k = a.channel k := by
  cases k <;> rfl

@[simp] theorem channel_setChannel_same (a : Apu) (k : ChannelId) (c : Channel) : (a.setChannel k c).channel k = c := by
  cases k <;> rfl

@[simp] theorem channel_setChannel_other (a : Apu) {k j : ChannelId} (c : Channel) (h : j ≠ k) :
    (a.setChannel k c).channel j = a.channel j := by
  cases k <;> cases j <;> first | rfl | exact absurd rfl h

@[simp] theorem setChannel_regs (a : Apu) (k : ChannelId) (c : Channel) : (a.setChannel k c).regs = a.regs := by
  cases k <;> rfl
@[simp] theorem setChannel_dmcActive (a : Apu) (k : ChannelId) (c : Channel) : (a.setChannel k c).dmcActive = a.dmcActive := by
  cases k <;> rfl
@[simp] theorem setChannel_dmcAddr (a : Apu) (k : ChannelId) (c : Channel) : (a.setChannel k c).dmcAddr = a.dmcAddr := by
  cases k <;> rfl
@[simp] theorem setChannel_dmcLen (a : Apu) (k : ChannelId) (c : Channel) : (a.setChannel k c).dmcLen = a.dmcLen := by
  cases k <;> rfl
@[simp] theorem setChannel_dmcBuffer (a : Apu) (k : ChannelId) (c : Channel) : (a.setChannel k c).dmcBuffer = a.dmcBuffer := by
  cases k <;> rfl
@[simp] theorem setChannel_dmcIrqFlag (a : Apu) (k : ChannelId) (c : Channel) : (a.setChannel k c).dmcIrqFlag = a.dmcIrqFlag := by
  cases k <;> rfl
@[simp] theorem setChannel_dmcDelta (a : Apu) (k : ChannelId) (c : Channel) : (a.setChannel k c).dmcDelta = a.dmcDelta := by
  cases k <;> rfl
@[simp] theorem setChannel_frames (a : Apu) (k : ChannelId) (c : Channel) : (a.setChannel k c).frames = a.frames := by
  cases k <;> rfl
@[simp] theorem setChannel_quarter (a : Apu) (k : ChannelId) (c : Channel) : (a.setChannel k c).quarter = a.quarter := by
  cases k <;> rfl
@[simp] theorem setChannel_half (a : Apu) (k : ChannelId) (c : Channel) : (a.setChannel k c).half = a.half := by
  cases k <;> rfl
@[simp] theorem setChannel_full (a : Apu) (k : ChannelId) (c : Channel) : (a.setChannel k c).full = a.full := by
  cases k <;> rfl
@[simp] theorem setChannel_lastFrameCounter (a : Apu) (k : ChannelId) (c : Channel) : (a.setChannel k c).lastFrameCounter = a.lastFrameCounter := by
  cases k <;> rfl
@[simp] theorem setChannel_noiseLfsr (a : Apu) (k : ChannelId) (c : Channel) : (a.setChannel k c).noiseLfsr = a.noiseLfsr := by
  cases k <;> rfl
@[simp] theorem setChannel_volumePercent (a : Apu) (k : ChannelId) (c : Channel) : (a.setChannel k c).volumePercent = a.volumePercent := by
  cases k <;> rfl

/-- Two APUs with the same registers have the same control fields. -/
theorem reg_of_regs {a b : Apu} (h : b.regs = a.regs) (i : BitVec 5) : b.reg i = a.reg i := by
  simp only [Apu.reg, h]

theorem enabled_of_regs {a b : Apu} (h : b.regs = a.regs) (k : ChannelId) : b.enabled k = a.enabled k := by
  simp only [Apu.enabled, Apu.reg, h]

theorem period_of_regs {a b : Apu} (h : b.regs = a.regs) (k : ChannelId) : b.period k = a.period k := by
  cases k <;> simp only [Apu.period, Apu.timerValue, Apu.reg, h]

/-- A timer's reload is never zero (rule R32). -/
theorem period_pos (a : Apu) (k : ChannelId) : 0 < a.period k := by
  have hn : ∀ i : BitVec 4, 0 < noisePeriodTable i := by decide
  have hd : ∀ i : BitVec 4, 0 < dmcRateTable i := by decide
  cases k <;> simp only [Apu.period, sampleRateHz]
  · omega
  · omega
  · omega
  · exact Nat.mul_pos (hn _) (by omega)
  · exact Nat.mul_pos (hd _) (by omega)

/-! ## No sample changes a register -/

@[simp] theorem envelopeClock_regs (a : Apu) (k : ChannelId) : (a.envelopeClock k).regs = a.regs := by
  simp [Apu.envelopeClock]

@[simp] theorem lengthClock_regs (a : Apu) (k : ChannelId) : (a.lengthClock k).regs = a.regs := by
  unfold Apu.lengthClock
  simp only
  split <;> simp

@[simp] theorem linearClock_regs (a : Apu) : (a.linearClock).regs = a.regs := by
  rfl

@[simp] theorem sweepClock_regs (a : Apu) (k : ChannelId) (i : BitVec 5) : (a.sweepClock k i).regs = a.regs := by
  simp [Apu.sweepClock]

@[simp] theorem quarterClocks_regs (a : Apu) : a.quarterClocks.regs = a.regs := by
  simp [Apu.quarterClocks]

@[simp] theorem halfClocks_regs (a : Apu) : a.halfClocks.regs = a.regs := by
  simp [Apu.halfClocks]

@[simp] theorem frameStep_regs (a : Apu) : a.frameStep.regs = a.regs := by
  unfold Apu.frameStep
  simp only
  repeat' split
  all_goals simp

@[simp] theorem runFrames_regs (a : Apu) : a.runFrames.regs = a.regs := by
  unfold Apu.runFrames
  exact turns_view Apu.regs _ frameStep_regs _ _

@[simp] theorem reduceCounter_regs (a : Apu) (k : ChannelId) : (a.reduceCounter k).regs = a.regs := by
  simp [Apu.reduceCounter]

@[simp] theorem pulseTimer_regs (a : Apu) (k : ChannelId) : (a.pulseTimer k).regs = a.regs := by
  simp [Apu.pulseTimer]

@[simp] theorem triangleTimer_regs (a : Apu) : a.triangleTimer.regs = a.regs := by
  simp [Apu.triangleTimer]

@[simp] theorem noiseTimer_regs (a : Apu) : a.noiseTimer.regs = a.regs := by
  simp [Apu.noiseTimer]

@[simp] theorem dmcFetch_regs (b : Bus) (a : Apu) : (a.dmcFetch b).regs = a.regs := by
  unfold Apu.dmcFetch
  simp only
  repeat' split
  all_goals rfl

@[simp] theorem dmcBit_regs (a : Apu) : a.dmcBit.regs = a.regs := rfl

@[simp] theorem dmcTick_regs (b : Bus) (a : Apu) : (a.dmcTick b).regs = a.regs := by
  unfold Apu.dmcTick
  simp only
  repeat' split
  all_goals simp

@[simp] theorem dmcTimer_regs (b : Bus) (a : Apu) : (a.dmcTimer b).regs = a.regs := by
  unfold Apu.dmcTimer
  simp only
  rw [turns_view Apu.regs _ (dmcTick_regs b)]
  simp

@[simp] theorem pulseOutput_regs (k : ChannelId) (lo : BitVec 5) (a : Apu) : (a.pulseOutput k lo).regs = a.regs := by
  simp [Apu.pulseOutput]

@[simp] theorem triangleOutput_regs (a : Apu) : a.triangleOutput.regs = a.regs := rfl

@[simp] theorem noiseOutput_regs (a : Apu) : a.noiseOutput.regs = a.regs := rfl

@[simp] theorem dmcOutput_regs (a : Apu) : a.dmcOutput.regs = a.regs := rfl

@[simp] theorem outputs_regs (a : Apu) : a.outputs.regs = a.regs := by
  simp [Apu.outputs]

@[simp] theorem sampleOutputs_regs (b : Bus) (a : Apu) : (a.sampleOutputs b).regs = a.regs := by
  simp [Apu.sampleOutputs]

@[simp] theorem grantChannel_regs (k : ChannelId) (a : Apu) : (a.grantChannel k).regs = a.regs := by
  simp [Apu.grantChannel]

@[simp] theorem grant_regs (a : Apu) : a.grant.regs = a.regs := rfl

@[simp] theorem sample_regs (b : Bus) (a : Apu) : (a.sample b).regs = a.regs := by
  simp [Apu.sample]

/-! ## Registers and tones of the AY -/

theorem ayReg_setReg (a : Ay) (i j : BitVec 4) (v : Word) : (a.setReg i v).reg j = if j = i then v else a.reg j := by
  by_cases h : j = i
  · subst h
    simp [Ay.setReg, Ay.reg]
  · have : i.toNat ≠ j.toNat := fun e => h (BitVec.eq_of_toNat_eq e.symm)
    simp [Ay.setReg, Ay.reg, Vector.getElem_set_ne, h, this]

@[simp] theorem tone_setTone_same (a : Ay) (c : AyChannel) (t : AyTone) : (a.setTone c t).tone c = t := by
  cases c <;> rfl

@[simp] theorem tone_setTone_other (a : Ay) {c d : AyChannel} (t : AyTone) (h : d ≠ c) :
    (a.setTone c t).tone d = a.tone d := by
  cases c <;> cases d <;> first | rfl | exact absurd rfl h

@[simp] theorem setTone_regs (a : Ay) (c : AyChannel) (t : AyTone) : (a.setTone c t).regs = a.regs := by
  cases c <;> rfl
@[simp] theorem setTone_noiseCounter (a : Ay) (c : AyChannel) (t : AyTone) : (a.setTone c t).noiseCounter = a.noiseCounter := by
  cases c <;> rfl
@[simp] theorem setTone_noiseLfsr (a : Ay) (c : AyChannel) (t : AyTone) : (a.setTone c t).noiseLfsr = a.noiseLfsr := by
  cases c <;> rfl
@[simp] theorem setTone_envCounter (a : Ay) (c : AyChannel) (t : AyTone) : (a.setTone c t).envCounter = a.envCounter := by
  cases c <;> rfl
@[simp] theorem setTone_envPos (a : Ay) (c : AyChannel) (t : AyTone) : (a.setTone c t).envPos = a.envPos := by
  cases c <;> rfl
@[simp] theorem setTone_envHolding (a : Ay) (c : AyChannel) (t : AyTone) : (a.setTone c t).envHolding = a.envHolding := by
  cases c <;> rfl
@[simp] theorem setTone_envRamp (a : Ay) (c : AyChannel) (t : AyTone) : (a.setTone c t).envRamp = a.envRamp := by
  cases c <;> rfl
@[simp] theorem setTone_chipType (a : Ay) (c : AyChannel) (t : AyTone) : (a.setTone c t).chipType = a.chipType := by
  cases c <;> rfl
@[simp] theorem setTone_flags (a : Ay) (c : AyChannel) (t : AyTone) : (a.setTone c t).flags = a.flags := by
  cases c <;> rfl
@[simp] theorem setTone_clockHz (a : Ay) (c : AyChannel) (t : AyTone) : (a.setTone c t).clockHz = a.clockHz := by
  cases c <;> rfl
@[simp] theorem setTone_sampleRateHz (a : Ay) (c : AyChannel) (t : AyTone) : (a.setTone c t).sampleRateHz = a.sampleRateHz := by
  cases c <;> rfl
@[simp] theorem setTone_volumePercent (a : Ay) (c : AyChannel) (t : AyTone) : (a.setTone c t).volumePercent = a.volumePercent := by
  cases c <;> rfl
@[simp] theorem setTone_freeCount (a : Ay) (c : AyChannel) (t : AyTone) : (a.setTone c t).freeCount = a.freeCount := by
  cases c <;> rfl

/-- One envelope turn changes the three envelope fields alone. -/
theorem envTick_view (a : Ay) :
    a.envTick = { a with
      envPos := a.envTick.envPos, envHolding := a.envTick.envHolding, envRamp := a.envTick.envRamp } := by
  unfold Ay.envTick
  repeat' split
  all_goals rfl

/-! ## Fields as arithmetic, and the sequencers -/

theorem extractLsb'_toNat_mod {w : Nat} (v : BitVec w) (k n : Nat) :
    (v.extractLsb' k n).toNat = v.toNat / 2 ^ k % 2 ^ n := by
  simp [BitVec.extractLsb'_toNat, Nat.shiftRight_eq_div_pow]

theorem append_toNat {m n : Nat} (a : BitVec m) (b : BitVec n) : (a ++ b).toNat = a.toNat * 2 ^ n + b.toNat := by
  rw [BitVec.toNat_append, ← Nat.shiftLeft_add_eq_or_of_lt b.isLt, Nat.shiftLeft_eq]

theorem timerValue_eq (a : Apu) (lo : BitVec 5) :
    a.timerValue lo = (a.reg (lo + 1)).toNat % 8 * 0x100 + (a.reg lo).toNat := by
  unfold Apu.timerValue
  rw [append_toNat, extractLsb'_toNat_mod]
  simp

/-- Counting a sequencer `n` times modulo `m` adds `n` modulo `m`. -/
theorem turns_sequencer (m n : Nat) (c : Channel) (h : c.sequencer < m) :
    turns (fun c : Channel => { c with sequencer := (c.sequencer + 1) % m }) n c =
      { c with sequencer := (c.sequencer + n) % m } := by
  induction n generalizing c with
  | zero => simp [turns, Nat.mod_eq_of_lt h]
  | succ n ih =>
    rw [turns, ih _ (Nat.mod_lt _ (by omega))]
    simp
    congr 1
    omega

end Sys2Proof.Machine
end

