-- ==== Sys2Proof/Laws/Exec.lean ====
section
/-! SUPPORT. What the shared operations of the meanings can do, said once: every instruction answers a next state, and
what of bus, APU, AY and host it may have changed. -/

namespace Sys2Proof.Machine

/-- The parts of the machine besides the CPU, and how one instruction may change them. -/
structure Changed (s t : State) : Prop where
  host : t.host = s.host
  blocks : t.bus.blocks = s.bus.blocks
  mapperBase : t.bus.mapperBase = s.bus.mapperBase
  memoryOk : s.memoryOk → t.memoryOk
  apu : t.apu = s.apu ∨ ∃ i v, t.apu = s.apu.write i v
  ay : t.ay = s.ay ∨ (∃ i v, t.ay = s.ay.setReg i v) ∨ ∃ v, t.ay = s.ay.writeEnvShape v

/-- An update of the CPU's registers alone. -/
theorem Changed.of_cpu {s t : State} (hb : t.bus = s.bus) (ha : t.apu = s.apu) (hy : t.ay = s.ay)
    (hh : t.host = s.host) : Changed s t :=
  ⟨hh, by rw [hb], by rw [hb], fun h => by unfold State.memoryOk at *; rw [hb]; exact h, .inl ha, .inl hy⟩

/-- One bus write, with any update of the CPU's registers before and after it. -/
theorem Changed.of_memWrite {s u t : State} (addr : Word) (v : Byte) (hb : u.bus = s.bus) (ha : u.apu = s.apu)
    (hy : u.ay = s.ay) (hh : u.host = s.host) (tb : t.bus = (memWrite u addr v).bus)
    (ta : t.apu = (memWrite u addr v).apu) (ty : t.ay = u.ay) (th : t.host = u.host) : Changed s t := by
  refine ⟨th.trans hh, by rw [tb, memWrite_blocks, hb], by rw [tb, memWrite_mapperBase, hb], ?_, ?_,
    .inl (ty.trans hy)⟩
  · intro h
    have := memWrite_memoryOk u addr v (by unfold State.memoryOk at *; rw [hb]; exact h)
    unfold State.memoryOk at *
    rw [tb]
    exact this
  · rcases memWrite_cases u addr v with ⟨k, -, -, e⟩ | ⟨i, -, e⟩ | ⟨i, -, e⟩ | ⟨-, e⟩
    · exact .inl (by rw [ta, e, ha])
    · exact .inr ⟨i, v, by rw [ta, e, ha]⟩
    · exact .inl (by rw [ta, e, ha])
    · exact .inl (by rw [ta, e, ha])

/-- One push. -/
theorem Changed.of_push {s u : State} (v : Byte) (h : Changed s u) : Changed s (push v u) := by
  refine ⟨by simp [h.host], ?_, ?_, fun hs => push_memoryOk v u (h.memoryOk hs), by simpa using h.apu,
    by simpa using h.ay⟩
  · rw [push_bus]; exact h.blocks
  · rw [push_bus]; exact h.mapperBase

/-- A further update of the CPU's registers. -/
theorem Changed.then_cpu {s u t : State} (h : Changed s u) (hb : t.bus = u.bus) (ha : t.apu = u.apu) (hy : t.ay = u.ay)
    (hh : t.host = u.host) : Changed s t :=
  ⟨hh.trans h.host, by rw [hb]; exact h.blocks, by rw [hb]; exact h.mapperBase,
    fun hs => by have := h.memoryOk hs; unfold State.memoryOk at *; rw [hb]; exact this,
    by rw [ha]; exact h.apu, by rw [hy]; exact h.ay⟩

theorem Changed.refl (s : State) : Changed s s := .of_cpu rfl rfl rfl rfl

theorem changed_shiftTo (tg : Tgt) (v : Byte) (c : Bool) (s : State) : Changed s (shiftTo tg v c s) := by
  cases tg with
  | acc => exact .of_cpu rfl rfl rfl rfl
  | mem m =>
    exact .of_memWrite (u := advance (memLength m) s) (effAddr m (advance (memLength m) s)) v rfl rfl rfl rfl rfl rfl
      (by simp [shiftTo, writeBack, tgtLength]) (by simp [shiftTo, writeBack, tgtLength])

theorem changed_branchIf (b : Bool) (d : Byte) (s : State) : Changed s (branchIf b d s) := by
  cases b <;> exact .of_cpu rfl rfl rfl rfl

theorem changed_storeByte (m : MemMode) (v : Byte) (s : State) : Changed s (storeByte m v s) :=
  .of_memWrite (u := advance (memLength m) s) _ v rfl rfl rfl rfl rfl rfl (by simp [storeByte]) (by simp [storeByte])

theorem changed_addToMemory (d : Byte) (m : MemMode) (s : State) : Changed s (addToMemory d m s) :=
  .of_memWrite (u := advance (memLength m) s) (effAddr m s) _ rfl rfl rfl rfl rfl rfl (by simp [addToMemory])
    (by simp [addToMemory])

theorem changed_push16 (w : Word) {s u : State} (h : Changed s u) : Changed s (push16 w u) := .of_push _ (.of_push _ h)

theorem changed_setPc (w : Word) {s u : State} (h : Changed s u) : Changed s (setPc w u) :=
  .then_cpu h rfl rfl rfl rfl

theorem changed_setP (v : Byte) {s u : State} (h : Changed s u) : Changed s (setP v u) :=
  .then_cpu h rfl rfl rfl rfl

theorem changed_takeTrap (r w : Word) {s u : State} (h : Changed s u) : Changed s (takeTrap r w u) := by
  unfold takeTrap
  exact changed_setPc _ (changed_setP _ (.of_push _ (changed_push16 r h)))

/-- A register write by itself. -/
theorem changed_apu (i : BitVec 5) (v : Byte) (s : State) (a : Apu) (h : a = s.apu.write i v) :
    Changed s { s with apu := a } :=
  ⟨rfl, rfl, rfl, id, .inr ⟨i, v, h⟩, .inl rfl⟩

theorem changed_ay (i : BitVec 4) (v : Word) (s : State) : Changed s { s with ay := s.ay.setReg i v } :=
  ⟨rfl, rfl, rfl, id, .inl rfl, .inr (.inl ⟨i, v, rfl⟩)⟩

/-- Every register command of the APU window is `ApuWrite` on its register number (rule R190). -/
theorem writeUnlisted_eq_write (r : UnlistedReg) (v : Byte) (a : Apu) : a.writeUnlisted r v = a.write r.index v := by
  cases r with
  | high k =>
    have h : ∀ k : BitVec 3, ∀ j : BitVec 5, 0x18 ||| k.setWidth 5 = j → 0x18 ≤ j.toNat := by decide
    simp only [Apu.writeUnlisted, UnlistedReg.index]
    generalize hj : 0x18 ||| k.setWidth 5 = j
    have hk := h k j hj
    unfold Apu.write
    split <;> first | rfl | simp at hk
  | _ => rfl

/-- Every instruction answers a next state, with at most one write to the APU or the AY. -/
theorem exec_changed (i : Instr) (s : State) : ∃ t, exec i s = .next t ∧ Changed s t := by
  cases i with
  | asl t | lsr t | rol t | ror t => exact ⟨_, rfl, changed_shiftTo _ _ _ _⟩
  | bpl d | bmi d | bcc d | bcs d | bne d | beq d => exact ⟨_, rfl, changed_branchIf _ _ _⟩
  | sta m | stx m | sty m => exact ⟨_, rfl, changed_storeByte _ _ _⟩
  | inc m | dec m => exact ⟨_, rfl, changed_addToMemory _ _ _⟩
  | pha => exact ⟨_, rfl, .of_push _ (.of_cpu rfl rfl rfl rfl)⟩
  | jsr w => exact ⟨_, rfl, changed_setPc _ (changed_push16 _ (.of_cpu (t := advance 3 s) rfl rfl rfl rfl))⟩
  | brk => exact ⟨_, rfl, changed_takeTrap _ _ (.of_cpu (t := advance 2 s) rfl rfl rfl rfl)⟩
  | apuPulse1Control v => exact ⟨_, rfl, changed_apu 0x00 v s _ rfl⟩
  | apuPulse1Sweep v => exact ⟨_, rfl, changed_apu 0x01 v s _ rfl⟩
  | apuPulse1TimerLow v => exact ⟨_, rfl, changed_apu 0x02 v s _ rfl⟩
  | apuPulse1Length v => exact ⟨_, rfl, changed_apu 0x03 v s _ rfl⟩
  | apuPulse2Control v => exact ⟨_, rfl, changed_apu 0x04 v s _ rfl⟩
  | apuPulse2Sweep v => exact ⟨_, rfl, changed_apu 0x05 v s _ rfl⟩
  | apuPulse2TimerLow v => exact ⟨_, rfl, changed_apu 0x06 v s _ rfl⟩
  | apuPulse2Length v => exact ⟨_, rfl, changed_apu 0x07 v s _ rfl⟩
  | apuTriangleControl v => exact ⟨_, rfl, changed_apu 0x08 v s _ rfl⟩
  | apuTriangleTimerLow v => exact ⟨_, rfl, changed_apu 0x0A v s _ rfl⟩
  | apuTriangleLength v => exact ⟨_, rfl, changed_apu 0x0B v s _ rfl⟩
  | apuNoiseControl v => exact ⟨_, rfl, changed_apu 0x0C v s _ rfl⟩
  | apuNoiseMode v => exact ⟨_, rfl, changed_apu 0x0E v s _ rfl⟩
  | apuNoiseLength v => exact ⟨_, rfl, changed_apu 0x0F v s _ rfl⟩
  | apuDmcControl v => exact ⟨_, rfl, changed_apu 0x10 v s _ rfl⟩
  | apuDmcDelta v => exact ⟨_, rfl, changed_apu 0x11 v s _ rfl⟩
  | apuDmcAddress v => exact ⟨_, rfl, changed_apu 0x12 v s _ rfl⟩
  | apuDmcLength v => exact ⟨_, rfl, changed_apu 0x13 v s _ rfl⟩
  | apuEnables v => exact ⟨_, rfl, changed_apu 0x15 v s _ rfl⟩
  | apuFrameCounter v => exact ⟨_, rfl, changed_apu 0x17 v s _ rfl⟩
  | apuUnlisted r v => exact ⟨_, rfl, changed_apu r.index v s _ (writeUnlisted_eq_write r v s.apu)⟩
  | bankSelect off v => exact ⟨_, rfl, ⟨rfl, rfl, rfl, id, .inl rfl, .inl rfl⟩⟩
  | ayToneLow c v => exact ⟨_, rfl, changed_ay _ v s⟩
  | ayToneHigh c v => exact ⟨_, rfl, changed_ay _ v s⟩
  | ayNoisePeriod v => exact ⟨_, rfl, changed_ay _ v s⟩
  | ayMixer v => exact ⟨_, rfl, changed_ay _ v s⟩
  | ayAmplitude c v => exact ⟨_, rfl, changed_ay _ v s⟩
  | ayEnvPeriodLow v => exact ⟨_, rfl, changed_ay _ v s⟩
  | ayEnvPeriodHigh v => exact ⟨_, rfl, changed_ay _ v s⟩
  | ayEnvShape v => exact ⟨_, rfl, ⟨rfl, rfl, rfl, id, .inl rfl, .inr (.inr ⟨v, rfl⟩)⟩⟩
  | ayPort p v => cases p <;> exact ⟨_, rfl, changed_ay _ v s⟩
  | _ => exact ⟨_, rfl, .of_cpu rfl rfl rfl rfl⟩

end Sys2Proof.Machine
end

