-- ==== Sys2Proof/Laws/Flags.lean ====
section
/-! SUPPORT. Reading a flag of `p` after a flag computation. -/

namespace Sys2Proof.Machine

/-- The eight flags sit at eight different bits, all below 8. -/
theorem Flag.bit_lt (f : Flag) : f.bit < 8 := by cases f <;> decide

theorem Flag.bit_injective {f g : Flag} (h : f.bit = g.bit) : f = g := by
  cases f <;> cases g <;> first | rfl | exact absurd h (by decide)

@[simp] theorem getFlag_setFlag_same (p : Byte) (f : Flag) (b : Bool) : getFlag (setFlag p f b) f = b := by
  have h := f.bit_lt
  cases b <;> simp [getFlag, setFlag, h]

@[simp] theorem getFlag_setFlag_other (p : Byte) {f g : Flag} (b : Bool) (h : g ≠ f) :
    getFlag (setFlag p f b) g = getFlag p g := by
  have hg := g.bit_lt
  have hne : ¬ (g.bit - f.bit = 0 ∧ f.bit ≤ g.bit) := fun ⟨h1, h2⟩ => h (Flag.bit_injective (by omega))
  cases b
  · simp only [getFlag, setFlag, Bool.false_eq_true, if_false, BitVec.getLsbD_and, BitVec.getLsbD_not,
      BitVec.getLsbD_shiftLeft, BitVec.getLsbD_one]
    simp only [hg, decide_true, Bool.true_and]
    by_cases hlt : g.bit < f.bit
    · simp [hlt]
    · have : g.bit - f.bit ≠ 0 := fun e => hne ⟨e, by omega⟩
      simp [hlt, this]
  · simp only [getFlag, setFlag, if_true, BitVec.getLsbD_or, BitVec.getLsbD_shiftLeft, BitVec.getLsbD_one]
    simp only [hg, decide_true, Bool.true_and]
    by_cases hlt : g.bit < f.bit
    · simp [hlt]
    · have : g.bit - f.bit ≠ 0 := fun e => hne ⟨e, by omega⟩
      simp [hlt, this]

/-- Bit 7 of a byte says that it is 0x80 or more. -/
theorem getLsbD_seven (v : Byte) : v.getLsbD 7 = decide (0x80 ≤ v.toNat) := by
  have h := BitVec.msb_eq_decide v
  have h' := BitVec.msb_eq_getLsbD_last v
  rw [← h'] at *
  simpa using h

/-- `SetNZ` writes Z and N from the byte and no other flag. -/
theorem setNZ_after (v p : Byte) : AfterSetNZ v p (setNZ v p) := by
  refine ⟨⟨?_, ?_⟩, ?_⟩
  · simp [setNZ, BitVec.toNat_eq, beq_eq_decide]
  · rw [← getLsbD_seven]
    simp [setNZ]
  · intro f hf
    simp only [List.mem_cons, List.not_mem_nil, or_false, not_or] at hf
    simp [setNZ, hf.1, hf.2]

/-- `setCNZ` writes C, Z and N and no other flag. -/
theorem setCNZ_after (c : Bool) (v p : Byte) : AfterSetCNZ c v p (setCNZ c v p) := by
  refine ⟨by simp [setCNZ, setNZ], (setNZ_after v _).1, ?_⟩
  intro f hf
  simp only [List.mem_cons, List.not_mem_nil, or_false, not_or] at hf
  simp [setCNZ, setNZ, hf.1, hf.2.1, hf.2.2]

/-- The carry is 0 or 1. -/
theorem carryIn_le (p : Byte) : carryIn p ≤ 1 := Bool.toNat_le _

/-- Which flags ADC and SBC write, and the three that are read off at once. -/
theorem addFlags_after (a m p : Byte) :
    getFlag (addFlags a m p) .C = decide (0xFF < addSum a m p) ∧ ShowsNZ (addResult a m p) (addFlags a m p) ∧
      SameFlagsBut [.C, .V, .Z, .N] p (addFlags a m p) := by
  refine ⟨by simp [addFlags, setNZ], (setNZ_after _ _).1, ?_⟩
  intro f hf
  simp only [List.mem_cons, List.not_mem_nil, or_false, not_or] at hf
  simp [addFlags, setNZ, hf.1, hf.2.1, hf.2.2.1, hf.2.2.2]

end Sys2Proof.Machine
end

