-- ==== Sys2Proof/Laws/PerInstr.lean ====
section
/-! SUPPORT. The families of statements about every instruction, one lemma per constructor. -/

namespace Sys2Proof.Laws.EncodedLength

/-- The bytes of an instruction in the CPU's instruction stream by its operand form (rule R110); a register command has
none. -/
def byteCount (i : Instr) : Nat :=
  match i with
  | .ora m | .and m | .eor m | .adc m | .sbc m | .cmp m | .cpx m | .cpy m | .lda m | .ldx m | .ldy m =>
    Machine.srcLength m
  | .asl t | .lsr t | .rol t | .ror t => Machine.tgtLength t
  | .bit m | .sta m | .stx m | .sty m | .inc m | .dec m => Machine.memLength m
  | .bpl _ | .bmi _ | .bcc _ | .bcs _ | .bne _ | .beq _ => 2
  | .jsr _ | .jmp _ => 3
  | i => if i.isCpu then 1 else 0

/-- A well-formed instruction encodes to as many bytes as its operand form has (rule R110). -/
def Statement (i : Instr) : Prop := i.wf = true → (encode i).length = byteCount i

theorem brk : Statement .brk := fun _ => rfl

theorem ora (m : Src) : Statement (.ora m) := by
  intro h
  rcases m with _ | _ <;> first | rfl | (rename_i m; cases m <;> first | rfl | cases h)

theorem asl (t : Tgt) : Statement (.asl t) := by
  intro h
  rcases t with _ | _ <;> first | rfl | (rename_i m; cases m <;> first | rfl | cases h)

theorem bpl (d : Byte) : Statement (.bpl d) := fun _ => rfl

theorem clc : Statement .clc := fun _ => rfl

theorem jsr (w : Word) : Statement (.jsr w) := fun _ => rfl

theorem and (m : Src) : Statement (.and m) := by
  intro h
  rcases m with _ | _ <;> first | rfl | (rename_i m; cases m <;> first | rfl | cases h)

theorem bit (m : MemMode) : Statement (.bit m) := by
  intro h
  cases m <;> first | rfl | cases h

theorem rol (t : Tgt) : Statement (.rol t) := by
  intro h
  rcases t with _ | _ <;> first | rfl | (rename_i m; cases m <;> first | rfl | cases h)

theorem bmi (d : Byte) : Statement (.bmi d) := fun _ => rfl

theorem sec : Statement .sec := fun _ => rfl

theorem eor (m : Src) : Statement (.eor m) := by
  intro h
  rcases m with _ | _ <;> first | rfl | (rename_i m; cases m <;> first | rfl | cases h)

theorem lsr (t : Tgt) : Statement (.lsr t) := by
  intro h
  rcases t with _ | _ <;> first | rfl | (rename_i m; cases m <;> first | rfl | cases h)

theorem pha : Statement .pha := fun _ => rfl

theorem jmp (j : JumpMode) : Statement (.jmp j) := by
  intro _
  cases j <;> rfl

theorem rts : Statement .rts := fun _ => rfl

theorem adc (m : Src) : Statement (.adc m) := by
  intro h
  rcases m with _ | _ <;> first | rfl | (rename_i m; cases m <;> first | rfl | cases h)

theorem ror (t : Tgt) : Statement (.ror t) := by
  intro h
  rcases t with _ | _ <;> first | rfl | (rename_i m; cases m <;> first | rfl | cases h)

theorem pla : Statement .pla := fun _ => rfl

theorem sta (m : MemMode) : Statement (.sta m) := by
  intro h
  cases m <;> first | rfl | cases h

theorem sty (m : MemMode) : Statement (.sty m) := by
  intro h
  cases m <;> first | rfl | cases h

theorem stx (m : MemMode) : Statement (.stx m) := by
  intro h
  cases m <;> first | rfl | cases h

theorem dey : Statement .dey := fun _ => rfl

theorem txa : Statement .txa := fun _ => rfl

theorem bcc (d : Byte) : Statement (.bcc d) := fun _ => rfl

theorem tya : Statement .tya := fun _ => rfl

theorem ldy (m : Src) : Statement (.ldy m) := by
  intro h
  rcases m with _ | _ <;> first | rfl | (rename_i m; cases m <;> first | rfl | cases h)

theorem lda (m : Src) : Statement (.lda m) := by
  intro h
  rcases m with _ | _ <;> first | rfl | (rename_i m; cases m <;> first | rfl | cases h)

theorem ldx (m : Src) : Statement (.ldx m) := by
  intro h
  rcases m with _ | _ <;> first | rfl | (rename_i m; cases m <;> first | rfl | cases h)

theorem tay : Statement .tay := fun _ => rfl

theorem tax : Statement .tax := fun _ => rfl

theorem bcs (d : Byte) : Statement (.bcs d) := fun _ => rfl

theorem cpy (m : Src) : Statement (.cpy m) := by
  intro h
  rcases m with _ | _ <;> first | rfl | (rename_i m; cases m <;> first | rfl | cases h)

theorem cmp (m : Src) : Statement (.cmp m) := by
  intro h
  rcases m with _ | _ <;> first | rfl | (rename_i m; cases m <;> first | rfl | cases h)

theorem dec (m : MemMode) : Statement (.dec m) := by
  intro h
  cases m <;> first | rfl | cases h

theorem iny : Statement .iny := fun _ => rfl

theorem dex : Statement .dex := fun _ => rfl

theorem bne (d : Byte) : Statement (.bne d) := fun _ => rfl

theorem cpx (m : Src) : Statement (.cpx m) := by
  intro h
  rcases m with _ | _ <;> first | rfl | (rename_i m; cases m <;> first | rfl | cases h)

theorem sbc (m : Src) : Statement (.sbc m) := by
  intro h
  rcases m with _ | _ <;> first | rfl | (rename_i m; cases m <;> first | rfl | cases h)

theorem inc (m : MemMode) : Statement (.inc m) := by
  intro h
  cases m <;> first | rfl | cases h

theorem inx : Statement .inx := fun _ => rfl

theorem nop : Statement .nop := fun _ => rfl

theorem beq (d : Byte) : Statement (.beq d) := fun _ => rfl

theorem apuPulse1Control (v : Byte) : Statement (.apuPulse1Control v) := fun _ => rfl

theorem apuPulse1Sweep (v : Byte) : Statement (.apuPulse1Sweep v) := fun _ => rfl

theorem apuPulse1TimerLow (v : Byte) : Statement (.apuPulse1TimerLow v) := fun _ => rfl

theorem apuPulse1Length (v : Byte) : Statement (.apuPulse1Length v) := fun _ => rfl

theorem apuPulse2Control (v : Byte) : Statement (.apuPulse2Control v) := fun _ => rfl

theorem apuPulse2Sweep (v : Byte) : Statement (.apuPulse2Sweep v) := fun _ => rfl

theorem apuPulse2TimerLow (v : Byte) : Statement (.apuPulse2TimerLow v) := fun _ => rfl

theorem apuPulse2Length (v : Byte) : Statement (.apuPulse2Length v) := fun _ => rfl

theorem apuTriangleControl (v : Byte) : Statement (.apuTriangleControl v) := fun _ => rfl

theorem apuTriangleTimerLow (v : Byte) : Statement (.apuTriangleTimerLow v) := fun _ => rfl

theorem apuTriangleLength (v : Byte) : Statement (.apuTriangleLength v) := fun _ => rfl

theorem apuNoiseControl (v : Byte) : Statement (.apuNoiseControl v) := fun _ => rfl

theorem apuNoiseMode (v : Byte) : Statement (.apuNoiseMode v) := fun _ => rfl

theorem apuNoiseLength (v : Byte) : Statement (.apuNoiseLength v) := fun _ => rfl

theorem apuDmcControl (v : Byte) : Statement (.apuDmcControl v) := fun _ => rfl

theorem apuDmcDelta (v : Byte) : Statement (.apuDmcDelta v) := fun _ => rfl

theorem apuDmcAddress (v : Byte) : Statement (.apuDmcAddress v) := fun _ => rfl

theorem apuDmcLength (v : Byte) : Statement (.apuDmcLength v) := fun _ => rfl

theorem apuEnables (v : Byte) : Statement (.apuEnables v) := fun _ => rfl

theorem apuFrameCounter (v : Byte) : Statement (.apuFrameCounter v) := fun _ => rfl

theorem apuUnlisted (r : UnlistedReg) (v : Byte) : Statement (.apuUnlisted r v) := fun _ => rfl

theorem bankSelect (off : BitVec 12) (v : Byte) : Statement (.bankSelect off v) := fun _ => rfl

theorem ayToneLow (c : AyChannel) (v : Word) : Statement (.ayToneLow c v) := fun _ => rfl

theorem ayToneHigh (c : AyChannel) (v : Word) : Statement (.ayToneHigh c v) := fun _ => rfl

theorem ayNoisePeriod (v : Word) : Statement (.ayNoisePeriod v) := fun _ => rfl

theorem ayMixer (v : Word) : Statement (.ayMixer v) := fun _ => rfl

theorem ayAmplitude (c : AyChannel) (v : Word) : Statement (.ayAmplitude c v) := fun _ => rfl

theorem ayEnvPeriodLow (v : Word) : Statement (.ayEnvPeriodLow v) := fun _ => rfl

theorem ayEnvPeriodHigh (v : Word) : Statement (.ayEnvPeriodHigh v) := fun _ => rfl

theorem ayEnvShape (v : Word) : Statement (.ayEnvShape v) := fun _ => rfl

theorem ayPort (p : AyPort) (v : Word) : Statement (.ayPort p v) := fun _ => rfl

end Sys2Proof.Laws.EncodedLength
end

