-- ==== Sys2Proof/Laws/Step.lean ====
section
/-! SUPPORT. What a step of the machine is in each of the host's situations: a run in flight, an operation queued,
nothing queued. -/

namespace Sys2Proof.Machine

theorem step_run {s : State} {r : Run} (h : s.host.run = some r) : step s = runStep r s := by
  simp only [step, machineStep, h]

theorem step_op {s : State} {op : HostOp} {rest : List HostOp} (h : s.performing op rest) :
    step s = performOp op (s.withQueue rest) := by
  simp only [step, machineStep, h.1, h.2, State.withQueue]

theorem step_single {s : State} (h : s.singleStepping) : step s = cpuStep s := by
  simp only [step, machineStep, h.1, h.2.1, h.2.2]
  rfl

theorem step_stopped {s : State} (h : s.host.run = none) (hq : s.host.queue = []) (hs : s.host.stopped = true) :
    step s = .next s := by
  simp only [step, machineStep, h, hq, hs]
  rfl

/-- What the return of a run does: it touches the host alone, and leaves it as the run's purpose says. -/
theorem finishRun_afterRun (status : Int) (r : Run) (s : State) :
    finishRun status r s = { s with host := s.host.afterRun r.purpose status } := by
  rcases r with ⟨budget, purpose⟩
  unfold finishRun HostState.afterRun
  cases purpose <;> by_cases h : status = 1 <;> simp [h, emit, hostStop, prepend]

/-- One CPU step, whoever asks for it: the decoded instruction, or `CpuError`. -/
theorem cpuStep_cases (s : State) :
    (∃ i rest t, decode (fetchBytes s) = .ok (i, rest) ∧ exec i s = .next t ∧ cpuStep s = .next t ∧ Changed s t) ∨
      cpuStep s = .fault (.cpuError s.cpu.pc) := by
  unfold cpuStep
  cases h : decode (fetchBytes s) with
  | error e => exact .inr rfl
  | ok p =>
    obtain ⟨i, rest⟩ := p
    obtain ⟨t, ht, hc⟩ := exec_changed i s
    exact .inl ⟨i, rest, t, rfl, ht, ht, hc⟩

end Sys2Proof.Machine
end

