-- ==== Sys2Proof/Tests/Slice0.lean ====
section
/-! SUPPORT. Tests. Every expected value is the spec's: the rows of the opcode table, the vectors V1 to V90 and the
figures of spec/95_test_vectors.md, or hand calculation from the rule a docstring names. At the end, for every
statement of Certificates/Slice0/Obligations.lean that has hypotheses, a witness that meets them. -/

namespace Sys2Proof.Tests

open Sys2Proof.Machine

/-! ## Well-formedness: a term that each check refuses -/

theorem test_wf_alu_refuses_zpy : (Instr.adc (.mem (.zpy 0x10))).wf = false := by decide
theorem test_wf_sta_refuses_zpy : (Instr.sta (.zpy 0x10)).wf = false := by decide
theorem test_wf_shift_refuses_indx : (Instr.asl (.mem (.indx 0x10))).wf = false := by decide
theorem test_wf_inc_refuses_absy : (Instr.inc (.absy 0x0300)).wf = false := by decide
theorem test_wf_bit_refuses_zpx : (Instr.bit (.zpx 0x10)).wf = false := by decide
theorem test_wf_cpx_refuses_indy : (Instr.cpx (.mem (.indy 0x10))).wf = false := by decide
theorem test_wf_ldx_refuses_zpx : (Instr.ldx (.mem (.zpx 0x10))).wf = false := by decide
theorem test_wf_ldy_refuses_absy : (Instr.ldy (.mem (.absy 0x0300))).wf = false := by decide
theorem test_wf_stx_refuses_absy : (Instr.stx (.absy 0x0300)).wf = false := by decide
theorem test_wf_sty_refuses_indx : (Instr.sty (.indx 0x10)).wf = false := by decide

/-! ## Decoding: the bytes of every row of the opcode table, with operand byte 0x12 or operand bytes 0x34 0x12 -/

/-- The bytes decode to the instruction, with nothing left over. -/
def reads (bytes : List Byte) (i : Instr) : Bool :=
  match decode bytes with
  | .ok (j, rest) => j == i && rest.isEmpty
  | .error _ => false

theorem test_decode_loads_and_stores : reads [0xA1, 0x12] (.lda (.mem (.indx 0x12))) = true ∧
    reads [0xA5, 0x12] (.lda (.mem (.zp 0x12))) = true ∧ reads [0xA9, 0x12] (.lda (.imm 0x12)) = true ∧
    reads [0xAD, 0x34, 0x12] (.lda (.mem (.abs 0x1234))) = true ∧
    reads [0xB1, 0x12] (.lda (.mem (.indy 0x12))) = true ∧ reads [0xB5, 0x12] (.lda (.mem (.zpx 0x12))) = true ∧
    reads [0xB9, 0x34, 0x12] (.lda (.mem (.absy 0x1234))) = true ∧
    reads [0xBD, 0x34, 0x12] (.lda (.mem (.absx 0x1234))) = true ∧ reads [0xA2, 0x12] (.ldx (.imm 0x12)) = true ∧
    reads [0xA6, 0x12] (.ldx (.mem (.zp 0x12))) = true ∧ reads [0xAE, 0x34, 0x12] (.ldx (.mem (.abs 0x1234))) = true ∧
    reads [0xB6, 0x12] (.ldx (.mem (.zpy 0x12))) = true ∧
    reads [0xBE, 0x34, 0x12] (.ldx (.mem (.absy 0x1234))) = true ∧ reads [0xA0, 0x12] (.ldy (.imm 0x12)) = true ∧
    reads [0xA4, 0x12] (.ldy (.mem (.zp 0x12))) = true ∧ reads [0xAC, 0x34, 0x12] (.ldy (.mem (.abs 0x1234))) = true ∧
    reads [0xB4, 0x12] (.ldy (.mem (.zpx 0x12))) = true ∧
    reads [0xBC, 0x34, 0x12] (.ldy (.mem (.absx 0x1234))) = true ∧ reads [0x81, 0x12] (.sta (.indx 0x12)) = true ∧
    reads [0x85, 0x12] (.sta (.zp 0x12)) = true ∧ reads [0x8D, 0x34, 0x12] (.sta (.abs 0x1234)) = true ∧
    reads [0x91, 0x12] (.sta (.indy 0x12)) = true ∧ reads [0x95, 0x12] (.sta (.zpx 0x12)) = true ∧
    reads [0x99, 0x34, 0x12] (.sta (.absy 0x1234)) = true ∧ reads [0x9D, 0x34, 0x12] (.sta (.absx 0x1234)) = true ∧
    reads [0x86, 0x12] (.stx (.zp 0x12)) = true ∧ reads [0x8E, 0x34, 0x12] (.stx (.abs 0x1234)) = true ∧
    reads [0x96, 0x12] (.stx (.zpy 0x12)) = true ∧ reads [0x84, 0x12] (.sty (.zp 0x12)) = true ∧
    reads [0x8C, 0x34, 0x12] (.sty (.abs 0x1234)) = true ∧ reads [0x94, 0x12] (.sty (.zpx 0x12)) = true := by
  decide

theorem test_decode_transfers : reads [0xAA] .tax = true ∧ reads [0xA8] .tay = true ∧ reads [0x8A] .txa = true ∧
    reads [0x98] .tya = true := by
  decide

theorem test_decode_stack : reads [0x48] .pha = true ∧ reads [0x68] .pla = true := by
  decide

theorem test_decode_arithmetic : reads [0x61, 0x12] (.adc (.mem (.indx 0x12))) = true ∧
    reads [0x65, 0x12] (.adc (.mem (.zp 0x12))) = true ∧ reads [0x69, 0x12] (.adc (.imm 0x12)) = true ∧
    reads [0x6D, 0x34, 0x12] (.adc (.mem (.abs 0x1234))) = true ∧
    reads [0x71, 0x12] (.adc (.mem (.indy 0x12))) = true ∧ reads [0x75, 0x12] (.adc (.mem (.zpx 0x12))) = true ∧
    reads [0x79, 0x34, 0x12] (.adc (.mem (.absy 0x1234))) = true ∧
    reads [0x7D, 0x34, 0x12] (.adc (.mem (.absx 0x1234))) = true ∧
    reads [0xE1, 0x12] (.sbc (.mem (.indx 0x12))) = true ∧ reads [0xE5, 0x12] (.sbc (.mem (.zp 0x12))) = true ∧
    reads [0xE9, 0x12] (.sbc (.imm 0x12)) = true ∧ reads [0xED, 0x34, 0x12] (.sbc (.mem (.abs 0x1234))) = true ∧
    reads [0xF1, 0x12] (.sbc (.mem (.indy 0x12))) = true ∧ reads [0xF5, 0x12] (.sbc (.mem (.zpx 0x12))) = true ∧
    reads [0xF9, 0x34, 0x12] (.sbc (.mem (.absy 0x1234))) = true ∧
    reads [0xFD, 0x34, 0x12] (.sbc (.mem (.absx 0x1234))) = true ∧ reads [0xE6, 0x12] (.inc (.zp 0x12)) = true ∧
    reads [0xEE, 0x34, 0x12] (.inc (.abs 0x1234)) = true ∧ reads [0xF6, 0x12] (.inc (.zpx 0x12)) = true ∧
    reads [0xFE, 0x34, 0x12] (.inc (.absx 0x1234)) = true ∧ reads [0xC6, 0x12] (.dec (.zp 0x12)) = true ∧
    reads [0xCE, 0x34, 0x12] (.dec (.abs 0x1234)) = true ∧ reads [0xD6, 0x12] (.dec (.zpx 0x12)) = true ∧
    reads [0xDE, 0x34, 0x12] (.dec (.absx 0x1234)) = true ∧ reads [0xE8] .inx = true ∧ reads [0xC8] .iny = true ∧
    reads [0xCA] .dex = true ∧ reads [0x88] .dey = true := by
  decide

theorem test_decode_logic : reads [0x21, 0x12] (.and (.mem (.indx 0x12))) = true ∧
    reads [0x25, 0x12] (.and (.mem (.zp 0x12))) = true ∧ reads [0x29, 0x12] (.and (.imm 0x12)) = true ∧
    reads [0x2D, 0x34, 0x12] (.and (.mem (.abs 0x1234))) = true ∧
    reads [0x31, 0x12] (.and (.mem (.indy 0x12))) = true ∧ reads [0x35, 0x12] (.and (.mem (.zpx 0x12))) = true ∧
    reads [0x39, 0x34, 0x12] (.and (.mem (.absy 0x1234))) = true ∧
    reads [0x3D, 0x34, 0x12] (.and (.mem (.absx 0x1234))) = true ∧
    reads [0x01, 0x12] (.ora (.mem (.indx 0x12))) = true ∧ reads [0x05, 0x12] (.ora (.mem (.zp 0x12))) = true ∧
    reads [0x09, 0x12] (.ora (.imm 0x12)) = true ∧ reads [0x0D, 0x34, 0x12] (.ora (.mem (.abs 0x1234))) = true ∧
    reads [0x11, 0x12] (.ora (.mem (.indy 0x12))) = true ∧ reads [0x15, 0x12] (.ora (.mem (.zpx 0x12))) = true ∧
    reads [0x19, 0x34, 0x12] (.ora (.mem (.absy 0x1234))) = true ∧
    reads [0x1D, 0x34, 0x12] (.ora (.mem (.absx 0x1234))) = true ∧
    reads [0x41, 0x12] (.eor (.mem (.indx 0x12))) = true ∧ reads [0x45, 0x12] (.eor (.mem (.zp 0x12))) = true ∧
    reads [0x49, 0x12] (.eor (.imm 0x12)) = true ∧ reads [0x4D, 0x34, 0x12] (.eor (.mem (.abs 0x1234))) = true ∧
    reads [0x51, 0x12] (.eor (.mem (.indy 0x12))) = true ∧ reads [0x55, 0x12] (.eor (.mem (.zpx 0x12))) = true ∧
    reads [0x59, 0x34, 0x12] (.eor (.mem (.absy 0x1234))) = true ∧
    reads [0x5D, 0x34, 0x12] (.eor (.mem (.absx 0x1234))) = true := by
  decide

theorem test_decode_compares : reads [0xC1, 0x12] (.cmp (.mem (.indx 0x12))) = true ∧
    reads [0xC5, 0x12] (.cmp (.mem (.zp 0x12))) = true ∧ reads [0xC9, 0x12] (.cmp (.imm 0x12)) = true ∧
    reads [0xCD, 0x34, 0x12] (.cmp (.mem (.abs 0x1234))) = true ∧
    reads [0xD1, 0x12] (.cmp (.mem (.indy 0x12))) = true ∧ reads [0xD5, 0x12] (.cmp (.mem (.zpx 0x12))) = true ∧
    reads [0xD9, 0x34, 0x12] (.cmp (.mem (.absy 0x1234))) = true ∧
    reads [0xDD, 0x34, 0x12] (.cmp (.mem (.absx 0x1234))) = true ∧ reads [0xE0, 0x12] (.cpx (.imm 0x12)) = true ∧
    reads [0xE4, 0x12] (.cpx (.mem (.zp 0x12))) = true ∧ reads [0xEC, 0x34, 0x12] (.cpx (.mem (.abs 0x1234))) = true ∧
    reads [0xC0, 0x12] (.cpy (.imm 0x12)) = true ∧ reads [0xC4, 0x12] (.cpy (.mem (.zp 0x12))) = true ∧
    reads [0xCC, 0x34, 0x12] (.cpy (.mem (.abs 0x1234))) = true ∧ reads [0x24, 0x12] (.bit (.zp 0x12)) = true ∧
    reads [0x2C, 0x34, 0x12] (.bit (.abs 0x1234)) = true := by
  decide

theorem test_decode_shifts : reads [0x06, 0x12] (.asl (.mem (.zp 0x12))) = true ∧ reads [0x0A] (.asl .acc) = true ∧
    reads [0x0E, 0x34, 0x12] (.asl (.mem (.abs 0x1234))) = true ∧
    reads [0x16, 0x12] (.asl (.mem (.zpx 0x12))) = true ∧
    reads [0x1E, 0x34, 0x12] (.asl (.mem (.absx 0x1234))) = true ∧
    reads [0x46, 0x12] (.lsr (.mem (.zp 0x12))) = true ∧ reads [0x4A] (.lsr .acc) = true ∧
    reads [0x4E, 0x34, 0x12] (.lsr (.mem (.abs 0x1234))) = true ∧
    reads [0x56, 0x12] (.lsr (.mem (.zpx 0x12))) = true ∧
    reads [0x5E, 0x34, 0x12] (.lsr (.mem (.absx 0x1234))) = true ∧
    reads [0x26, 0x12] (.rol (.mem (.zp 0x12))) = true ∧ reads [0x2A] (.rol .acc) = true ∧
    reads [0x2E, 0x34, 0x12] (.rol (.mem (.abs 0x1234))) = true ∧
    reads [0x36, 0x12] (.rol (.mem (.zpx 0x12))) = true ∧
    reads [0x3E, 0x34, 0x12] (.rol (.mem (.absx 0x1234))) = true ∧
    reads [0x66, 0x12] (.ror (.mem (.zp 0x12))) = true ∧ reads [0x6A] (.ror .acc) = true ∧
    reads [0x6E, 0x34, 0x12] (.ror (.mem (.abs 0x1234))) = true ∧
    reads [0x76, 0x12] (.ror (.mem (.zpx 0x12))) = true ∧
    reads [0x7E, 0x34, 0x12] (.ror (.mem (.absx 0x1234))) = true := by
  decide

theorem test_decode_jumps : reads [0x4C, 0x34, 0x12] (.jmp (.abs 0x1234)) = true ∧
    reads [0x6C, 0x34, 0x12] (.jmp (.ind 0x1234)) = true ∧ reads [0x20, 0x34, 0x12] (.jsr 0x1234) = true ∧
    reads [0x60] .rts = true ∧ reads [0x00] .brk = true := by
  decide

theorem test_decode_branches : reads [0x90, 0x12] (.bcc 0x12) = true ∧ reads [0xB0, 0x12] (.bcs 0x12) = true ∧
    reads [0xF0, 0x12] (.beq 0x12) = true ∧ reads [0xD0, 0x12] (.bne 0x12) = true ∧
    reads [0x30, 0x12] (.bmi 0x12) = true ∧ reads [0x10, 0x12] (.bpl 0x12) = true := by
  decide

theorem test_decode_flags : reads [0x18] .clc = true ∧ reads [0x38] .sec = true ∧ reads [0xEA] .nop = true := by
  decide

/-! ### Register commands: the write of 0x5A, or of 0x015A, to each register -/

theorem test_decode_apu_low : decodeCommand (.bus 0x4000 0x5A) = some (.apuPulse1Control 0x5A) ∧
    decodeCommand (.bus 0x4001 0x5A) = some (.apuPulse1Sweep 0x5A) ∧
    decodeCommand (.bus 0x4002 0x5A) = some (.apuPulse1TimerLow 0x5A) ∧
    decodeCommand (.bus 0x4003 0x5A) = some (.apuPulse1Length 0x5A) ∧
    decodeCommand (.bus 0x4004 0x5A) = some (.apuPulse2Control 0x5A) ∧
    decodeCommand (.bus 0x4005 0x5A) = some (.apuPulse2Sweep 0x5A) ∧
    decodeCommand (.bus 0x4006 0x5A) = some (.apuPulse2TimerLow 0x5A) ∧
    decodeCommand (.bus 0x4007 0x5A) = some (.apuPulse2Length 0x5A) ∧
    decodeCommand (.bus 0x4008 0x5A) = some (.apuTriangleControl 0x5A) ∧
    decodeCommand (.bus 0x4009 0x5A) = some (.apuUnlisted .r09 0x5A) ∧
    decodeCommand (.bus 0x400A 0x5A) = some (.apuTriangleTimerLow 0x5A) ∧
    decodeCommand (.bus 0x400B 0x5A) = some (.apuTriangleLength 0x5A) := by
  decide

theorem test_decode_apu_high : decodeCommand (.bus 0x400C 0x5A) = some (.apuNoiseControl 0x5A) ∧
    decodeCommand (.bus 0x400D 0x5A) = some (.apuUnlisted .r0D 0x5A) ∧
    decodeCommand (.bus 0x400E 0x5A) = some (.apuNoiseMode 0x5A) ∧
    decodeCommand (.bus 0x400F 0x5A) = some (.apuNoiseLength 0x5A) ∧
    decodeCommand (.bus 0x4010 0x5A) = some (.apuDmcControl 0x5A) ∧
    decodeCommand (.bus 0x4011 0x5A) = some (.apuDmcDelta 0x5A) ∧
    decodeCommand (.bus 0x4012 0x5A) = some (.apuDmcAddress 0x5A) ∧
    decodeCommand (.bus 0x4013 0x5A) = some (.apuDmcLength 0x5A) ∧
    decodeCommand (.bus 0x4014 0x5A) = some (.apuUnlisted .r14 0x5A) ∧
    decodeCommand (.bus 0x4015 0x5A) = some (.apuEnables 0x5A) ∧
    decodeCommand (.bus 0x4016 0x5A) = some (.apuUnlisted .r16 0x5A) ∧
    decodeCommand (.bus 0x4017 0x5A) = some (.apuFrameCounter 0x5A) := by
  decide

theorem test_decode_bus_edges : decodeCommand (.bus 0x4018 0x5A) = some (.apuUnlisted (.high 0) 0x5A) ∧
    decodeCommand (.bus 0x401F 0x5A) = some (.apuUnlisted (.high 7) 0x5A) ∧ decodeCommand (.bus 0x3FFF 0x5A) = none ∧
    decodeCommand (.bus 0x4020 0x5A) = none ∧ decodeCommand (.bus 0x5000 0x5A) = some (.bankSelect 0x000 0x5A) ∧
    decodeCommand (.bus 0x5FF8 0x5A) = some (.bankSelect 0xFF8 0x5A) ∧
    decodeCommand (.bus 0x5FFF 0x5A) = some (.bankSelect 0xFFF 0x5A) ∧ decodeCommand (.bus 0x4FFF 0x5A) = none ∧
    decodeCommand (.bus 0x6000 0x5A) = none := by
  decide

theorem test_decode_ay : decodeCommand (.ay 0 0x015A) = some (.ayToneLow .A 0x015A) ∧
    decodeCommand (.ay 1 0x015A) = some (.ayToneHigh .A 0x015A) ∧
    decodeCommand (.ay 2 0x015A) = some (.ayToneLow .B 0x015A) ∧
    decodeCommand (.ay 3 0x015A) = some (.ayToneHigh .B 0x015A) ∧
    decodeCommand (.ay 4 0x015A) = some (.ayToneLow .C 0x015A) ∧
    decodeCommand (.ay 5 0x015A) = some (.ayToneHigh .C 0x015A) ∧
    decodeCommand (.ay 6 0x015A) = some (.ayNoisePeriod 0x015A) ∧
    decodeCommand (.ay 7 0x015A) = some (.ayMixer 0x015A) ∧
    decodeCommand (.ay 8 0x015A) = some (.ayAmplitude .A 0x015A) ∧
    decodeCommand (.ay 9 0x015A) = some (.ayAmplitude .B 0x015A) ∧
    decodeCommand (.ay 10 0x015A) = some (.ayAmplitude .C 0x015A) ∧
    decodeCommand (.ay 11 0x015A) = some (.ayEnvPeriodLow 0x015A) ∧
    decodeCommand (.ay 12 0x015A) = some (.ayEnvPeriodHigh 0x015A) ∧
    decodeCommand (.ay 13 0x015A) = some (.ayEnvShape 0x015A) ∧
    decodeCommand (.ay 14 0x015A) = some (.ayPort .reg14 0x015A) ∧
    decodeCommand (.ay 15 0x015A) = some (.ayPort .reg15 0x015A) ∧ decodeCommand (.ay 16 0x015A) = none := by
  decide

/-! ## One CPU instruction each: vectors of spec/95_test_vectors.md part 2 -/

/-- The CPU's registers; the stop marker is of no account to an instruction. -/
def regs (a x y sp p : Byte) (pc : Word) : Cpu := { a := a, x := x, y := y, sp := sp, p := p, pc := pc, stopSp := 0xFF }

/-- The reset machine with the CPU's registers set, and bytes written to the bus. -/
def start (c : Cpu) (bytes : List (Word × Byte)) : State :=
  bytes.foldl (fun s x => memWrite s x.1 x.2) { State.reset with cpu := c }

/-- The next step leaves these registers, and the bus reads these bytes. -/
def ends (s : State) (c : Cpu) (bytes : List (Word × Byte)) : Bool :=
  match step s with
  | .next t => t.cpu == c && bytes.all fun x => memRead t x.1 == x.2
  | .fault _ => false
  | .refused _ => false

/-- The next step is `CpuError` at this address. -/
def faultsAt (s : State) (pc : Word) : Bool :=
  match step s with
  | .next _ => false
  | .fault (.cpuError at_) => at_ == pc
  | .refused _ => false

/-- Vector V16. -/
theorem test_ora_V16 :
    ends (start (regs 0x01 0x00 0x00 0xFD 0x00 0x0200) [(0x0200, 0x0D), (0x0201, 0x00), (0x0202, 0x03), (0x0300, 0x80)])
      (regs 0x81 0x00 0x00 0xFD 0x80 0x0203) [] = true := by
  decide

/-- Vector V36. -/
theorem test_asl_V36 :
    ends (start (regs 0x81 0x00 0x00 0xFD 0x00 0x0200) [(0x0200, 0x0A)])
      (regs 0x02 0x00 0x00 0xFD 0x01 0x0201) [] = true := by
  decide

/-- Vector V37. -/
theorem test_asl_V37 :
    ends (start (regs 0x55 0x00 0x00 0xFD 0x01 0x0200) [(0x0200, 0x06), (0x0201, 0x20), (0x0020, 0x40)])
      (regs 0x55 0x00 0x00 0xFD 0x80 0x0202) [(0x0020, 0x80)] = true := by
  decide

/-- Vector V82. -/
theorem test_bpl_V82 :
    ends (start (regs 0x00 0x00 0x00 0xFD 0x00 0x0200) [(0x0200, 0x10), (0x0201, 0xFB)])
      (regs 0x00 0x00 0x00 0xFD 0x00 0x01FD) [] = true := by
  decide

/-- Vector V83. -/
theorem test_bpl_V83 :
    ends (start (regs 0x00 0x00 0x00 0xFD 0x80 0x0200) [(0x0200, 0x10), (0x0201, 0xFB)])
      (regs 0x00 0x00 0x00 0xFD 0x80 0x0202) [] = true := by
  decide

/-- Vector V84. -/
theorem test_clc_V84 :
    ends (start (regs 0x00 0x00 0x00 0xFD 0xFF 0x0200) [(0x0200, 0x18)])
      (regs 0x00 0x00 0x00 0xFD 0xFE 0x0201) [] = true := by
  decide

/-- Vector V71. -/
theorem test_jsr_V71 :
    ends (start (regs 0x00 0x00 0x00 0xFD 0x00 0x0200) [(0x0200, 0x20), (0x0201, 0x00), (0x0202, 0x90)])
      (regs 0x00 0x00 0x00 0xFB 0x00 0x9000) [(0x01FC, 0x02), (0x01FB, 0x02)] = true := by
  decide

/-- Vector V14. -/
theorem test_and_V14 :
    ends (start (regs 0xFF 0x00 0x00 0xFD 0x00 0x0200) [(0x0200, 0x25), (0x0201, 0x10), (0x0010, 0x80)])
      (regs 0x80 0x00 0x00 0xFD 0x80 0x0202) [] = true := by
  decide

/-- Vector V19. -/
theorem test_bit_V19 :
    ends (start (regs 0x01 0x00 0x00 0xFD 0x00 0x0200) [(0x0200, 0x24), (0x0201, 0x10), (0x0010, 0xC0)])
      (regs 0x01 0x00 0x00 0xFD 0xC2 0x0202) [] = true := by
  decide

/-- Vector V21. -/
theorem test_bit_V21 :
    ends (start (regs 0xFF 0x00 0x00 0xFD 0xC0 0x0200) [(0x0200, 0x2C), (0x0201, 0x15), (0x0202, 0x40)])
      (regs 0xFF 0x00 0x00 0xFD 0x02 0x0203) [] = true := by
  decide

/-- Vector V40. -/
theorem test_rol_V40 :
    ends (start (regs 0x80 0x00 0x00 0xFD 0x01 0x0200) [(0x0200, 0x2A)])
      (regs 0x01 0x00 0x00 0xFD 0x01 0x0201) [] = true := by
  decide

/-- Vector V41. -/
theorem test_rol_V41 :
    ends (start (regs 0x00 0x00 0x00 0xFD 0x00 0x0200) [(0x0200, 0x26), (0x0201, 0x20), (0x0020, 0x40)])
      (regs 0x00 0x00 0x00 0xFD 0x80 0x0202) [(0x0020, 0x80)] = true := by
  decide

/-- Vector V81. -/
theorem test_bmi_V81 :
    ends (start (regs 0x00 0x00 0x00 0xFD 0x80 0x0200) [(0x0200, 0x30), (0x0201, 0x05)])
      (regs 0x00 0x00 0x00 0xFD 0x80 0x0207) [] = true := by
  decide

/-- Vector V85. -/
theorem test_sec_V85 :
    ends (start (regs 0x00 0x00 0x00 0xFD 0x00 0x0200) [(0x0200, 0x38)])
      (regs 0x00 0x00 0x00 0xFD 0x01 0x0201) [] = true := by
  decide

/-- Vector V18. -/
theorem test_eor_V18 :
    ends (start (regs 0x0F 0x00 0x00 0xFD 0x00 0x0200) [(0x0200, 0x49), (0x0201, 0xFF)])
      (regs 0xF0 0x00 0x00 0xFD 0x80 0x0202) [] = true := by
  decide

/-- Vector V38. -/
theorem test_lsr_V38 :
    ends (start (regs 0x01 0x00 0x00 0xFD 0x80 0x0200) [(0x0200, 0x4A)])
      (regs 0x00 0x00 0x00 0xFD 0x03 0x0201) [] = true := by
  decide

/-- Vector V39. -/
theorem test_lsr_V39 :
    ends (start (regs 0x00 0x00 0x00 0xFD 0x00 0x0200) [(0x0200, 0x4E), (0x0201, 0x00), (0x0202, 0x03), (0x0300, 0xFE)])
      (regs 0x00 0x00 0x00 0xFD 0x00 0x0203) [(0x0300, 0x7F)] = true := by
  decide

/-- Vector V65. -/
theorem test_pha_V65 :
    ends (start (regs 0x42 0x00 0x00 0xEF 0x00 0x0200) [(0x0200, 0x48)])
      (regs 0x42 0x00 0x00 0xEE 0x00 0x0201) [(0x01EE, 0x42), (0x01EF, 0x00)] = true := by
  decide

/-- Vector V66. -/
theorem test_pha_V66 :
    ends (start (regs 0x42 0x00 0x00 0x00 0x00 0x0200) [(0x0200, 0x48)])
      (regs 0x42 0x00 0x00 0xFF 0x00 0x0201) [(0x01FF, 0x42), (0x0100, 0x00)] = true := by
  decide

/-- Vector V69. -/
theorem test_jmp_V69 :
    ends (start (regs 0x00 0x00 0x00 0xFD 0x00 0x0200) [(0x0200, 0x4C), (0x0201, 0x34), (0x0202, 0x12)])
      (regs 0x00 0x00 0x00 0xFD 0x00 0x1234) [] = true := by
  decide

/-- Vector V70. -/
theorem test_jmp_V70 :
    ends (start (regs 0x00 0x00 0x00 0xFD 0x00 0x0200) [(0x0200, 0x6C), (0x0201, 0xFF), (0x0202, 0x02), (0x02FF, 0x34), (0x0300, 0x12)])
      (regs 0x00 0x00 0x00 0xFD 0x00 0x1234) [] = true := by
  decide

/-- Vector V72. -/
theorem test_rts_V72 :
    ends (start (regs 0x00 0x00 0x00 0xFB 0x00 0x0200) [(0x0200, 0x60), (0x01FB, 0x02), (0x01FC, 0x02)])
      (regs 0x00 0x00 0x00 0xFD 0x00 0x0203) [] = true := by
  decide

/-- Vector V73. -/
theorem test_rts_V73 :
    ends (start (regs 0x00 0x00 0x00 0xFF 0x00 0x0200) [(0x0200, 0x60), (0x01FF, 0xFF), (0x0100, 0xFF)])
      (regs 0x00 0x00 0x00 0x01 0x00 0x0000) [] = true := by
  decide

/-- Vector V3. -/
theorem test_adc_V3 :
    ends (start (regs 0x80 0x00 0x00 0xFD 0x00 0x0200) [(0x0200, 0x69), (0x0201, 0x80)])
      (regs 0x00 0x00 0x00 0xFD 0x43 0x0202) [] = true := by
  decide

/-- Vector V5. -/
theorem test_adc_V5 :
    ends (start (regs 0xFF 0x00 0x00 0xFD 0x01 0x0200) [(0x0200, 0x69), (0x0201, 0xFF)])
      (regs 0xFF 0x00 0x00 0xFD 0x81 0x0202) [] = true := by
  decide

/-- Vector V42. -/
theorem test_ror_V42 :
    ends (start (regs 0x01 0x00 0x00 0xFD 0x01 0x0200) [(0x0200, 0x6A)])
      (regs 0x80 0x00 0x00 0xFD 0x81 0x0201) [] = true := by
  decide

/-- Vector V43. -/
theorem test_ror_V43 :
    ends (start (regs 0x00 0x01 0x00 0xFD 0x00 0x0200) [(0x0200, 0x76), (0x0201, 0x1F), (0x0020, 0x01)])
      (regs 0x00 0x01 0x00 0xFD 0x03 0x0202) [(0x0020, 0x00)] = true := by
  decide

/-- Vector V67. -/
theorem test_pla_V67 :
    ends (start (regs 0x00 0x00 0x00 0xEE 0x00 0x0200) [(0x0200, 0x68), (0x01EE, 0x80)])
      (regs 0x80 0x00 0x00 0xEF 0x80 0x0201) [] = true := by
  decide

/-- Vector V68. -/
theorem test_pla_V68 :
    ends (start (regs 0x11 0x00 0x00 0xFF 0x00 0x0200) [(0x0200, 0x68), (0x01FF, 0x00), (0x0100, 0x55)])
      (regs 0x00 0x00 0x00 0x00 0x02 0x0201) [] = true := by
  decide

/-- Vector V56. -/
theorem test_sta_V56 :
    ends (start (regs 0x33 0x00 0x00 0xFD 0x00 0x0200) [(0x0200, 0x8D), (0x0201, 0x10), (0x0202, 0x08)])
      (regs 0x33 0x00 0x00 0xFD 0x00 0x0203) [(0x0010, 0x33), (0x0810, 0x33), (0x1810, 0x33)] = true := by
  decide

/-- Vector V58. -/
theorem test_sta_V58 :
    ends (start (regs 0x77 0x00 0x01 0xFD 0x00 0x0200) [(0x0200, 0x91), (0x0201, 0x40), (0x0040, 0xFF), (0x0041, 0x02)])
      (regs 0x77 0x00 0x01 0xFD 0x00 0x0202) [(0x0300, 0x77)] = true := by
  decide

/-- Vector V60. -/
theorem test_sty_V60 :
    ends (start (regs 0x00 0x00 0x9C 0xFD 0x00 0x0200) [(0x0200, 0x8C), (0x0201, 0x00), (0x0202, 0x60)])
      (regs 0x00 0x00 0x9C 0xFD 0x00 0x0203) [(0x6000, 0x9C)] = true := by
  decide

/-- Vector V59. -/
theorem test_stx_V59 :
    ends (start (regs 0x00 0x12 0x02 0xFD 0x00 0x0200) [(0x0200, 0x96), (0x0201, 0xFF)])
      (regs 0x00 0x12 0x02 0xFD 0x00 0x0202) [(0x0001, 0x12), (0x0101, 0x00)] = true := by
  decide

/-- Vector V35. -/
theorem test_dey_V35 :
    ends (start (regs 0x00 0x00 0x01 0xFD 0x00 0x0200) [(0x0200, 0x88)])
      (regs 0x00 0x00 0x00 0xFD 0x02 0x0201) [] = true := by
  decide

/-- Vector V63. -/
theorem test_txa_V63 :
    ends (start (regs 0x80 0x01 0x00 0xFD 0x82 0x0200) [(0x0200, 0x8A)])
      (regs 0x01 0x01 0x00 0xFD 0x00 0x0201) [] = true := by
  decide

/-- Vector V75. -/
theorem test_bcc_V75 :
    ends (start (regs 0x00 0x00 0x00 0xFD 0x00 0x0200) [(0x0200, 0x90), (0x0201, 0x10)])
      (regs 0x00 0x00 0x00 0xFD 0x00 0x0212) [] = true := by
  decide

/-- Vector V76. -/
theorem test_bcc_V76 :
    ends (start (regs 0x00 0x00 0x00 0xFD 0x01 0x0200) [(0x0200, 0x90), (0x0201, 0x10)])
      (regs 0x00 0x00 0x00 0xFD 0x01 0x0202) [] = true := by
  decide

/-- Vector V64. -/
theorem test_tya_V64 :
    ends (start (regs 0x00 0x00 0xFF 0xFD 0x00 0x0200) [(0x0200, 0x98)])
      (regs 0xFF 0x00 0xFF 0xFD 0x80 0x0201) [] = true := by
  decide

/-- Vector V54. -/
theorem test_ldy_V54 :
    ends (start (regs 0x00 0x01 0x00 0xFD 0x00 0x0200) [(0x0200, 0xB4), (0x0201, 0x10), (0x0011, 0xFF)])
      (regs 0x00 0x01 0xFF 0xFD 0x80 0x0202) [] = true := by
  decide

/-- Vector V48. -/
theorem test_lda_V48 :
    ends (start (regs 0x00 0x01 0x00 0xFD 0x00 0x0200) [(0x0200, 0xA1), (0x0201, 0xFE), (0x00FF, 0x34), (0x0000, 0x02), (0x0234, 0x5A), (0x0100, 0x07)])
      (regs 0x5A 0x01 0x00 0xFD 0x00 0x0202) [] = true := by
  decide

/-- Vector V49. -/
theorem test_lda_V49 :
    ends (start (regs 0x00 0x00 0x10 0xFD 0x00 0x0200) [(0x0200, 0xB1), (0x0201, 0xFF), (0x00FF, 0xF8), (0x0000, 0x02), (0x0308, 0xA5), (0x0100, 0x07)])
      (regs 0xA5 0x00 0x10 0xFD 0x80 0x0202) [] = true := by
  decide

/-- Vector V52. -/
theorem test_ldx_V52 :
    ends (start (regs 0x00 0x00 0x90 0xFD 0x00 0x0200) [(0x0200, 0xB6), (0x0201, 0x80), (0x0010, 0x7F)])
      (regs 0x00 0x7F 0x90 0xFD 0x00 0x0202) [] = true := by
  decide

/-- Vector V53. -/
theorem test_ldx_V53 :
    ends (start (regs 0x00 0x00 0x02 0xFD 0x00 0x0200) [(0x0200, 0xBE), (0x0201, 0x00), (0x0202, 0x03), (0x0302, 0x00)])
      (regs 0x00 0x00 0x02 0xFD 0x02 0x0203) [] = true := by
  decide

/-- Vector V62. -/
theorem test_tay_V62 :
    ends (start (regs 0x00 0x00 0x05 0xFD 0x00 0x0200) [(0x0200, 0xA8)])
      (regs 0x00 0x00 0x00 0xFD 0x02 0x0201) [] = true := by
  decide

/-- Vector V61. -/
theorem test_tax_V61 :
    ends (start (regs 0x80 0x00 0x00 0xFD 0x00 0x0200) [(0x0200, 0xAA)])
      (regs 0x80 0x80 0x00 0xFD 0x80 0x0201) [] = true := by
  decide

/-- Vector V77. -/
theorem test_bcs_V77 :
    ends (start (regs 0x00 0x00 0x00 0xFD 0x01 0x0200) [(0x0200, 0xB0), (0x0201, 0xFE)])
      (regs 0x00 0x00 0x00 0xFD 0x01 0x0200) [] = true := by
  decide

/-- Vector V27. -/
theorem test_cpy_V27 :
    ends (start (regs 0x00 0x00 0x00 0xFD 0x00 0x0200) [(0x0200, 0xC4), (0x0201, 0x20), (0x0020, 0x01)])
      (regs 0x00 0x00 0x00 0xFD 0x80 0x0202) [] = true := by
  decide

/-- Vector V23. -/
theorem test_cmp_V23 :
    ends (start (regs 0x10 0x00 0x00 0xFD 0x01 0x0200) [(0x0200, 0xC9), (0x0201, 0x20)])
      (regs 0x10 0x00 0x00 0xFD 0x80 0x0202) [] = true := by
  decide

/-- Vector V24. -/
theorem test_cmp_V24 :
    ends (start (regs 0x80 0x00 0x00 0xFD 0x00 0x0200) [(0x0200, 0xC9), (0x0201, 0x01)])
      (regs 0x80 0x00 0x00 0xFD 0x01 0x0202) [] = true := by
  decide

/-- Vector V30. -/
theorem test_dec_V30 :
    ends (start (regs 0x00 0x00 0x00 0xFD 0x00 0x0200) [(0x0200, 0xC6), (0x0201, 0x20), (0x0020, 0x00)])
      (regs 0x00 0x00 0x00 0xFD 0x80 0x0202) [(0x0020, 0xFF)] = true := by
  decide

/-- Vector V31. -/
theorem test_dec_V31 :
    ends (start (regs 0x00 0x00 0x00 0xFD 0x00 0x0200) [(0x0200, 0xCE), (0x0201, 0x00), (0x0202, 0x03), (0x0300, 0x01)])
      (regs 0x00 0x00 0x00 0xFD 0x02 0x0203) [(0x0300, 0x00)] = true := by
  decide

/-- Vector V33. -/
theorem test_iny_V33 :
    ends (start (regs 0x00 0x00 0x7F 0xFD 0x00 0x0200) [(0x0200, 0xC8)])
      (regs 0x00 0x00 0x80 0xFD 0x80 0x0201) [] = true := by
  decide

/-- Vector V34. -/
theorem test_dex_V34 :
    ends (start (regs 0x00 0x00 0x00 0xFD 0x00 0x0200) [(0x0200, 0xCA)])
      (regs 0x00 0xFF 0x00 0xFD 0x80 0x0201) [] = true := by
  decide

/-- Vector V79. -/
theorem test_bne_V79 :
    ends (start (regs 0x00 0x00 0x00 0xFD 0x00 0x0200) [(0x0200, 0xD0), (0x0201, 0x7F)])
      (regs 0x00 0x00 0x00 0xFD 0x00 0x0281) [] = true := by
  decide

/-- Vector V80. -/
theorem test_bne_V80 :
    ends (start (regs 0x00 0x00 0x00 0xFD 0x02 0x0200) [(0x0200, 0xD0), (0x0201, 0x7F)])
      (regs 0x00 0x00 0x00 0xFD 0x02 0x0202) [] = true := by
  decide

/-- Vector V26. -/
theorem test_cpx_V26 :
    ends (start (regs 0x00 0x06 0x00 0xFD 0x00 0x0200) [(0x0200, 0xE0), (0x0201, 0x05)])
      (regs 0x00 0x06 0x00 0xFD 0x01 0x0202) [] = true := by
  decide

/-- Vector V8. -/
theorem test_sbc_V8 :
    ends (start (regs 0x50 0x00 0x00 0xFD 0x01 0x0200) [(0x0200, 0xE9), (0x0201, 0xB0)])
      (regs 0xA0 0x00 0x00 0xFD 0xC0 0x0202) [] = true := by
  decide

/-- Vector V11. -/
theorem test_sbc_V11 :
    ends (start (regs 0x80 0x00 0x00 0xFD 0x01 0x0200) [(0x0200, 0xE9), (0x0201, 0x01)])
      (regs 0x7F 0x00 0x00 0xFD 0x41 0x0202) [] = true := by
  decide

/-- Vector V28. -/
theorem test_inc_V28 :
    ends (start (regs 0x00 0x00 0x00 0xFD 0x00 0x0200) [(0x0200, 0xE6), (0x0201, 0x20), (0x0020, 0xFF)])
      (regs 0x00 0x00 0x00 0xFD 0x02 0x0202) [(0x0020, 0x00)] = true := by
  decide

/-- Vector V29. -/
theorem test_inc_V29 :
    ends (start (regs 0x00 0x01 0x00 0xFD 0x00 0x0200) [(0x0200, 0xFE), (0x0201, 0xFF), (0x0202, 0x02), (0x0300, 0x7F)])
      (regs 0x00 0x01 0x00 0xFD 0x80 0x0203) [(0x0300, 0x80)] = true := by
  decide

/-- Vector V32. -/
theorem test_inx_V32 :
    ends (start (regs 0x00 0xFF 0x00 0xFD 0x00 0x0200) [(0x0200, 0xE8)])
      (regs 0x00 0x00 0x00 0xFD 0x02 0x0201) [] = true := by
  decide

/-- Vector V86. -/
theorem test_nop_V86 :
    ends (start (regs 0x01 0x02 0x03 0xFD 0xA5 0x0200) [(0x0200, 0xEA)])
      (regs 0x01 0x02 0x03 0xFD 0xA5 0x0201) [] = true := by
  decide

/-- Vector V78. -/
theorem test_beq_V78 :
    ends (start (regs 0x00 0x00 0x00 0xFD 0x02 0x0200) [(0x0200, 0xF0), (0x0201, 0x80)])
      (regs 0x00 0x00 0x00 0xFD 0x02 0x0182) [] = true := by
  decide

/-- Vector V74: the vector is a block at 0xFFFE. -/
theorem test_brk_V74 :
    (let s := start (regs 0x00 0x00 0x00 0xFD 0x81 0x0200) [(0x0200, 0x00), (0x0201, 0xEA)]
    ends { s with bus := s.bus.setBlock 0xFFFE [0x00, 0x90] } (regs 0x00 0x00 0x00 0xFA 0x85 0x9000)
      [(0x01FC, 0x02), (0x01FB, 0x02), (0x01FA, 0xB1)]) = true := by
  decide

/-- Vector V87: 0x08 is no instruction. -/
theorem test_undefined_V87 : faultsAt (start (regs 1 2 3 0xFD 0xA5 0x0200) [(0x0200, 0x08)]) 0x0200 = true := by decide

/-- Vector V90: a fetch at 0x3000 reads 0xFF. -/
theorem test_undefined_V90 : faultsAt (start (regs 0 0 0 0xFD 0x00 0x3000) []) 0x3000 = true := by decide

/-! ## One register command each -/

/-- The instruction answers a next state whose APU passes the check. -/
def apuAfter (i : Instr) (a : Apu) (check : Apu → Bool) : Bool :=
  match exec i { State.reset with apu := a } with
  | .next t => check t.apu
  | .fault _ => false
  | .refused _ => false

/-- The reset APU with all five channels enabled. -/
def enabledApu : Apu := State.reset.apu.setReg 0x15 0x1F

/-- A plain store of 0x5A reaches its register. -/
theorem test_apu_plain :
    (([(.apuPulse1Control 0x5A, 0x00), (.apuPulse1Sweep 0x5A, 0x01), (.apuPulse1TimerLow 0x5A, 0x02),
      (.apuPulse2Control 0x5A, 0x04), (.apuPulse2Sweep 0x5A, 0x05), (.apuPulse2TimerLow 0x5A, 0x06),
      (.apuTriangleControl 0x5A, 0x08), (.apuTriangleTimerLow 0x5A, 0x0A), (.apuNoiseControl 0x5A, 0x0C),
      (.apuDmcAddress 0x5A, 0x12), (.apuDmcLength 0x5A, 0x13), (.apuUnlisted .r14 0x5A, 0x14),
      (.apuUnlisted (.high 7) 0x5A, 0x1F)] : List (Instr × BitVec 5)).all fun c =>
        apuAfter c.1 enabledApu fun a => a.reg c.2 == 0x5A) = true := by
  decide

/-- The figure of scenario 3: 0x4002 <- 0x80 gives the period `2 * 129 * 44100`. -/
theorem test_apuPulse1TimerLow_period :
    apuAfter (.apuPulse1TimerLow 0x80) enabledApu (fun a => a.period .pulse1 == 11377800) = true := by decide

/-- Length index 1 is 254, and the three timer bits reach the period: `2 * (0x700 + 1) * 44100` (rules R194, R195). -/
theorem test_apuPulse1Length :
    apuAfter (.apuPulse1Length 0x0F) enabledApu (fun a =>
      a.pulse1.lenCounter == 254 && a.pulse1.updateEnvelope && a.period .pulse1 == 158142600) = true := by decide

/-- A disabled channel's length is not loaded; the envelope still restarts (rules R199, R220). -/
theorem test_apuPulse2Length_disabled :
    apuAfter (.apuPulse2Length 0x08) (State.reset.apu.setReg 0x15 0x1D) (fun a =>
      a.pulse2.lenCounter == 0 && a.pulse2.updateEnvelope) = true := by decide

theorem test_apuTriangleLength :
    apuAfter (.apuTriangleLength 0x08) enabledApu (fun a =>
      a.triangle.lenCounter == 254 && a.triangle.linearReloadFlag) = true := by decide

theorem test_apuNoiseLength :
    apuAfter (.apuNoiseLength 0xF8) enabledApu (fun a => a.noise.lenCounter == 30 && a.noise.updateEnvelope) = true := by
  decide

/-- A change of the mode bit puts the shift register to 1, a write without one keeps it (rule R204). -/
theorem test_apuNoiseMode :
    apuAfter (.apuNoiseMode 0x83) { enabledApu with noiseLfsr := 0x1234 } (fun a =>
        a.noiseLfsr == 1 && a.period .noise == 32 * 44100) = true ∧
      apuAfter (.apuNoiseMode 0x03) { enabledApu with noiseLfsr := 0x1234 } (fun a => a.noiseLfsr == 0x1234) = true := by
  decide

/-- Bit 7 clear clears the flag, bit 7 set keeps it (rule R206). -/
theorem test_apuDmcControl :
    apuAfter (.apuDmcControl 0x0F) { enabledApu with dmcIrqFlag := true } (fun a =>
        !a.dmcIrqFlag && a.period .dmc == 54 * 44100) = true ∧
      apuAfter (.apuDmcControl 0x8F) { enabledApu with dmcIrqFlag := true } (fun a => a.dmcIrqFlag) = true := by
  decide

theorem test_apuDmcDelta : apuAfter (.apuDmcDelta 0xC1) enabledApu (fun a => a.dmcDelta == 0x41) = true := by decide

/-- Bit 4 starts the DMC at `0xC000 + 64 * 1` with `16 * 2 + 1` bytes; bit 1 clear silences pulse 2 (rule R210). -/
theorem test_apuEnables :
    apuAfter (.apuEnables 0x1D) { (enabledApu.setReg 0x12 0x01).setReg 0x13 0x02 with
        pulse1 := { Channel.reset with lenCounter := 5 }, pulse2 := { Channel.reset with lenCounter := 7 } } (fun a =>
      a.dmcActive && a.dmcAddr == 0xC040 && a.dmcLen == 33 && a.pulse1.lenCounter == 5 && a.pulse2.lenCounter == 0) =
      true := by
  decide

/-- The frame phase restarts; the divider keeps its time (rule R211). -/
theorem test_apuFrameCounter :
    apuAfter (.apuFrameCounter 0x80) { enabledApu with frames := 3, lastFrameCounter := 77 } (fun a =>
      a.frames == 0 && a.lastFrameCounter == 77 && a.reg 0x17 == 0x80) = true := by
  decide

/-- Vector B3: bank register 0 at 0x5FF8 is also at 0x5000, keeps all eight bits, and banking is on. -/
theorem test_bankSelect :
    (match exec (.bankSelect 0xFF8 0x95) State.reset with
      | .next t => memRead t 0x5000 == 0x95 && memRead t 0x5008 == 0x95 && memRead t 0x5001 == 0x00 &&
          t.bus.bankingEnabled
      | .fault _ => false
      | .refused _ => false) = true := by
  decide

/-- The instruction answers a next state whose AY passes the check. -/
def ayAfter (i : Instr) (a : Ay) (check : Ay → Bool) : Bool :=
  match exec i { State.reset with ay := a } with
  | .next t => check t.ay
  | .fault _ => false
  | .refused _ => false

/-- The whole 16-bit value is kept and read back (rules R152, R160). -/
theorem test_ay_plain :
    (([(.ayToneLow .B 0xA55A, 2), (.ayToneHigh .C 0xA55A, 5), (.ayNoisePeriod 0xA55A, 6), (.ayMixer 0xA55A, 7),
      (.ayAmplitude .C 0xA55A, 10), (.ayEnvPeriodLow 0xA55A, 11), (.ayEnvPeriodHigh 0xA55A, 12),
      (.ayPort .reg14 0xA55A, 14), (.ayPort .reg15 0xA55A, 15)] : List (Instr × Nat)).all fun c =>
        ayAfter c.1 Ay.initial fun a => a.read c.2 == 0xA55A) = true := by
  decide

/-- The noise period 31 and the envelope period 0x1234, in the unit of rule R170 (rule R171). -/
theorem test_ay_periods :
    ayAfter (.ayNoisePeriod 0xFF) Ay.initial (fun a => a.noisePeriod == 31 * 16 * 44100) = true ∧
      ayAfter (.ayEnvPeriodHigh 0x12) (Ay.initial.setReg 11 0x34) (fun a => a.envPeriod == 0x1234 * 16 * 44100) =
        true := by
  decide

theorem test_ayEnvShape :
    ayAfter (.ayEnvShape 0x0E) { Ay.initial with envPos := 9, envHolding := true, envRamp := true, envCounter := 5 }
      (fun a => a.envPos == 0 && !a.envHolding && !a.envRamp && a.envCounter == 0 && a.read 13 == 0x0E) = true := by
  decide

/-! ## The chips' own steps -/

/-- The feedback of 1 goes into bit 14, in both modes (rule R246). -/
theorem test_noiseShift : noiseShift false 1 = 0x4000 ∧ noiseShift true 1 = 0x4000 ∧ noiseShift true 0x0041 = 0x0020 := by
  decide

/-- Vector A2: the fourth of the five frame steps gives no clock, the fifth all three. -/
theorem test_frameStep_mode5 :
    (let a := ({ State.reset.apu.setReg 0x17 0x80 with frames := 3 } : Apu).frameStep
    !a.quarter && !a.half && !a.full && a.frames == 4 && a.frameStep.full && a.frameStep.frames == 0) = true := by
  decide

/-- The DMC's address goes from 0xFFFF to 0x8000 (rule R252). -/
theorem test_dmcFetch_wraps :
    (({ State.reset.apu with dmcActive := true, dmcAddr := 0xFFFF, dmcLen := 2 } : Apu).dmcFetch Bus.initial).dmcAddr =
      0x8000 := by
  decide

/-! ## The host -/

/-- The reset machine with operations queued. -/
def host (ops : List HostOp) : State := State.reset.withQueue ops

/-- The next step answers a next state that passes the check. -/
def stepOk (s : State) (check : State → Bool) : Bool :=
  match step s with
  | .next t => check t
  | .fault _ => false
  | .refused _ => false

/-- `BUS` writes: true to RAM, false to the hole at 0x2002 (vector B1). -/
theorem test_busWrite :
    stepOk (host [.busWrite 0x0810 0x33]) (fun t =>
        memRead t 0x1810 == 0x33 && t.host.results == [.wrote true]) = true ∧
      stepOk (host [.busWrite 0x2002 0x33]) (fun t => t.host.results == [.wrote false]) = true := by
  decide

/-- A data block of two bytes with a command after it (rules R146, R353); a 67 without its 66 (log 26). -/
theorem test_vgm_data_block :
    stepOk (host [.vgm .apu 0x8000 [0x67, 0x66, 0xC2, 2, 0, 0, 0, 0xAA, 0xBB, 0x62]])
      (fun t => t.host.queue == [.setBlock 0x8000 [0xAA, 0xBB], .vgm .apu 0x8000 [0x62]]) = true ∧
      step (host [.vgm .apu 0x8000 [0x67, 0x00]]) = .refused (.vgmBlockMarker 0x00) ∧
      step (host [.vgm .apu 0x8000 [0x67, 0x66, 0xC2, 2, 0, 0, 0, 0xAA]]) = .refused (.vgmTruncated 0x67) :=
  ⟨by decide, rfl, rfl⟩

/-- Command 66 ends the run (rule R366) with a wait and bytes still pending; a stream without it does not (log 24). -/
theorem test_vgm_end :
    stepOk (host [.vgm .apu 0x8000 [0x66, 0x62], .wait .apu 1]) (fun t => t.host.queue == [.stop, .wait .apu 1]) = true ∧
      stepOk (host [.stop, .wait .apu 1]) (fun t => t.host.queue == [] && t.host.stopped) = true ∧
      stepOk (host [.vgm .apu 0x8000 [], .wait .apu 1]) (fun t => t.host.queue == [.wait .apu 1] && !t.host.stopped) =
        true := by
  decide

/-- `61 34 12` waits `0x1234 + 1` samples, `70` waits one, `80` none (rule R358). -/
theorem test_vgm_waits :
    stepOk (host [.vgm .apu 0x8000 [0x61, 0x34, 0x12]]) (fun t => t.host.queue == [.wait .apu 0x1235]) = true ∧
      stepOk (host [.vgm .ay 0x8000 [0x70]]) (fun t => t.host.queue == [.wait .ay 1]) = true ∧
      stepOk (host [.vgm .apu 0x8000 [0x80]]) (fun t => t.host.queue == [.wait .apu 0]) = true := by
  decide

/-- The number whose bytes are `A9 42` makes the next step LDA #0x42. -/
theorem test_withFetchWord : stepOk (State.reset.withFetchWord 16 0x42A9) (fun t => t.cpu.a == 0x42) = true := by
  decide

/-- From a program counter in ROM the instruction is placed at 0x0200. -/
theorem test_withFetchWord_rom :
    stepOk (({ State.reset with cpu := { Cpu.reset with pc := 0x8000 } } : State).withFetchWord 8 0xE8) (fun t =>
      t.cpu.x == 1 && t.cpu.pc == 0x0201) = true := by
  decide

/-- The table's number of JMP (0x12FF) decodes; 0x02 does not. -/
theorem test_decodeTableWord :
    decodeTableWord 24 0x12FF6C = some (.jmp (.ind 0x12FF)) ∧ decodeTableWord 8 0x02 = none := by decide

/-! ## Witnesses: a concrete state and operands for the hypotheses of each statement -/

theorem witness_DecodeEncode :
    (Instr.lda (.mem (.indy 0x10))).wf = true ∧ (Instr.lda (.mem (.indy 0x10))).isCpu = true := by
  decide

theorem witness_EncodeDecode : decode [0x8D, 0x15, 0x40, 0x60] = .ok (.sta (.abs 0x4015), [0x60]) := rfl

/-- Both ends of the window, of the bank range and of the AY's registers. -/
theorem witness_CommandRoundTrip :
    decodeCommand (.bus 0x4000 1) = some (.apuPulse1Control 1) ∧
      decodeCommand (.bus 0x401F 1) = some (.apuUnlisted (.high 7) 1) ∧
      decodeCommand (.bus 0x5000 1) = some (.bankSelect 0x000 1) ∧
      decodeCommand (.bus 0x5FFF 1) = some (.bankSelect 0xFFF 1) ∧ decodeCommand (.ay 0 1) = some (.ayToneLow .A 1) ∧
      decodeCommand (.ay 15 1) = some (.ayPort .reg15 1) ∧ (Instr.ayPort .reg15 1).isCpu = false := by
  decide

/-- A CPU at 0x2000, where the bus reads 0xFF, which is no opcode. -/
def atHole : State := { State.reset with cpu := { Cpu.reset with sp := 0x80, pc := 0x2000 } }

theorem witness_UndefinedOpcodes :
    0x02 ∈ undefinedOpcodes ∧ 0xFF ∈ undefinedOpcodes ∧ 0x00 ∉ undefinedOpcodes ∧ 0xFE ∉ undefinedOpcodes ∧
      atHole.singleStepping ∧ memRead atHole atHole.cpu.pc ∈ undefinedOpcodes :=
  ⟨by decide, by decide, by decide, by decide, ⟨rfl, rfl, rfl⟩, by decide⟩

/-- A `call` in flight with one unit of budget, at a NOP. -/
def inCall : State :=
  let s := start (regs 0 0 0 0x80 0 0x0200) [(0x0200, 0xEA)]
  { s with host := { s.host with run := some { budget := some 1, purpose := .plain } } }

theorem witness_StepRunsDecoded :
    State.reset.singleStepping ∧
      decode [memRead State.reset 0x0000, memRead State.reset 0x0001, memRead State.reset 0x0002] = .ok (.brk, [0, 0]) ∧
      decode [memRead inCall 0x0200, memRead inCall 0x0201, memRead inCall 0x0202] = .ok (.nop, [0, 0]) ∧
      inCall.host.run = some { budget := some 1, purpose := .plain } ∧ (some 1 : Option Nat) ≠ some 0 ∧
      inCall.cpu.sp ≠ inCall.cpu.stopSp ∧ ∃ t, exec .nop inCall = .next t :=
  ⟨⟨rfl, rfl, rfl⟩, rfl, rfl, rfl, by decide, by decide, _, rfl⟩

theorem witness_CpuErrorIsPrecise :
    memRead atHole atHole.cpu.pc ∈ undefinedOpcodes ∧ (atHole.withQueue [.cpuStep]).performing .cpuStep [] ∧
      atHole.cpu.sp ≠ atHole.cpu.stopSp :=
  ⟨by decide, ⟨rfl, rfl⟩, by decide⟩

/-- A boot in flight, with unlimited budget. -/
theorem witness_CpuErrorIsPrecise_run :
    let r : Run := { budget := none, purpose := .boot }
    let s : State := { atHole with host := { atHole.host with run := some r } }
    memRead s s.cpu.pc ∈ undefinedOpcodes ∧ s.host.run = some r ∧ r.budget ≠ some 0 ∧ s.cpu.sp ≠ s.cpu.stopSp :=
  ⟨by decide, rfl, by decide, by decide⟩

theorem witness_BusRead : (host [.busRead 0x1FFF]).performing (.busRead 0x1FFF) [] := ⟨rfl, rfl⟩

theorem witness_BusWrite :
    (host [.busWrite 0x7FFF 1]).memoryOk ∧ (host [.busWrite 0x7FFF 1]).performing (.busWrite 0x7FFF 1) [] ∧
      SameRamByte 0x0000 0x1800 ∧ SameRamByte 0x1FFF 0x07FF :=
  ⟨rfl, ⟨rfl, rfl⟩, ⟨by decide, by decide, by decide⟩, by decide, by decide, by decide⟩

/-- The second of two blocks holds its first and its last byte, and neither the number before nor the one after. -/
theorem witness_RomLookupFirstBlock :
    let b : Block := { base := 0x9000, bytes := [0x60, 0x61] }
    let c : Block := { base := 0x8000, bytes := [0x62] }
    (∀ x ∈ [c], ¬ (x.base.toNat ≤ 0x9000 ∧ 0x9000 < x.base.toNat + x.bytes.length)) ∧
      (b.base.toNat ≤ 0x9000 ∧ 0x9000 < b.base.toNat + b.bytes.length) ∧
      (b.base.toNat ≤ 0x9001 ∧ 0x9001 < b.base.toNat + b.bytes.length) ∧
      ∀ n ∈ [0x8FFF, 0x9002], ∀ x ∈ [c, b], ¬ (x.base.toNat ≤ n ∧ n < x.base.toNat + x.bytes.length) := by
  decide

/-- The last banked address of window 7, another window, and the first vector byte. -/
theorem witness_BankWriteRemapsOneWindow :
    (BitVec.ofNat 16 (0x8000 + (7 : BitVec 3).toNat * 0x1000 + (0xFF9 : BitVec 12).toNat) : Word).toNat ≤ 0xFFF9 ∧
      (6 : BitVec 3) ≠ 7 ∧ ({ Bus.initial with bankingEnabled := true } : Bus).bankingEnabled = true ∧
      0xFFFA ≤ (0xFFFA : Word).toNat := by
  decide

/-- With three blocks a fourth is taken, with four a fifth is dropped. -/
theorem witness_SetBlock :
    let b : Block := { base := 0x8000, bytes := [0x60] }
    let s (n : Nat) : State :=
      { host [.setBlock 0x9000 [0x61]] with bus := { Bus.initial with blocks := List.replicate n b, mapperBase := 0x8000 } }
    (s 3).performing (.setBlock 0x9000 [0x61]) [] ∧ (s 3).bus.blocks.length < 4 ∧ 4 ≤ (s 4).bus.blocks.length ∧
      (s 0).bus.blocks = [] ∧ (s 4).performing (.setBlock 0x9000 [0x61]) [] :=
  ⟨⟨rfl, rfl⟩, by decide, by decide, rfl, rfl, rfl⟩

/-- A machine with bytes stored in RAM and in battery RAM. -/
def stored : State := start (regs 0x12 0x34 0x56 0x00 0x81 0x0200) [(0x0000, 1), (0x07FF, 2), (0x6000, 3), (0x7FFF, 4)]

theorem witness_StoreResults : stored.memoryOk := by unfold State.memoryOk; decide
theorem witness_PushPullResults : stored.memoryOk := witness_StoreResults
theorem witness_IncDecMemory : stored.memoryOk := witness_StoreResults
theorem witness_ShiftResults : stored.memoryOk := witness_StoreResults
theorem witness_SubroutineResults : stored.memoryOk := witness_StoreResults
theorem witness_StackRoundTrips : stored.memoryOk := witness_StoreResults
theorem witness_BrkTrap : stored.memoryOk := witness_StoreResults

/-- A step that changes I, one that changes V, one that changes C. -/
theorem witness_FlagWriters :
    (∃ t, exec .brk State.reset = .next t ∧ getFlag t.cpu.p .I ≠ getFlag State.reset.cpu.p .I) ∧
      (∃ t, exec (.bit (.zp 0)) (start Cpu.reset [(0x0000, 0x40)]) = .next t ∧
        getFlag t.cpu.p .V ≠ getFlag (start Cpu.reset [(0x0000, 0x40)]).cpu.p .V) ∧
      (∃ t, exec .sec State.reset = .next t ∧ getFlag t.cpu.p .C ≠ getFlag State.reset.cpu.p .C) ∧
      Instr.brk.isCpu = true ∧ (Instr.bit (.zp 0)).isCpu = true ∧ Instr.sec.isCpu = true :=
  ⟨⟨_, rfl, by decide⟩, ⟨_, rfl, by decide⟩, ⟨_, rfl, by decide⟩, rfl, rfl, rfl⟩

theorem witness_CpuReach :
    Instr.pha.isCpu = true ∧ ∃ t, exec .pha State.reset = .next t ∧ t.cpu.sp ≠ State.reset.cpu.sp :=
  ⟨rfl, _, rfl, by decide⟩

/-- A store into the window and one into the bank range. -/
theorem witness_StoreIsCommand :
    let s : State := { State.reset with cpu := regs 0x0F 0x1F 0x05 0 0 0 }
    decodeCommand (.bus (effAddr (.abs 0x4015) s) s.cpu.a) = some (.apuEnables 0x0F) ∧
      decodeCommand (.bus (effAddr (.abs 0x401F) s) s.cpu.x) = some (.apuUnlisted (.high 7) 0x1F) ∧
      decodeCommand (.bus (effAddr (.abs 0x5FF8) s) s.cpu.y) = some (.bankSelect 0xFF8 0x05) := by
  decide

theorem witness_HostRegisterWrites :
    15 < 16 ∧ (host [.ayWrite 16 1]).performing (.ayWrite 16 1) [] ∧
      decodeCommand (.ay 15 1) = some (.ayPort .reg15 1) ∧ (host [.ayWrite 15 1]).performing (.ayWrite 15 1) [] ∧
      (host [.vgmA0 7 0x3E]).performing (.vgmA0 7 0x3E) [] ∧ (host [.vgmB4 0xFF 1]).performing (.vgmB4 0xFF 1) [] :=
  ⟨by decide, ⟨rfl, rfl⟩, by decide, ⟨rfl, rfl⟩, ⟨rfl, rfl⟩, rfl, rfl⟩

/-- The last phase of each mode. -/
theorem witness_FrameSignals :
    ({ State.reset.apu with frames := 3 } : Apu).framesOk ∧
      ({ State.reset.apu.setReg 0x17 0x80 with frames := 4 } : Apu).framesOk := by
  unfold Apu.framesOk
  decide

theorem witness_FirstFrameStep : 184 ≤ 184 ∧ 185 = 185 := by decide

/-- A started envelope of each of the three channels. -/
theorem witness_EnvelopeDecay :
    ∀ k ∈ [ChannelId.pulse1, .pulse2, .noise],
      ((State.reset.apu.startEnvelope k).channel k).updateEnvelope = true ∧
        ((State.reset.apu.startEnvelope k).reg k.controlReg).getLsbD 5 = false ∧
        ((State.reset.apu.startEnvelope k).reg k.controlReg).toNat % 16 = 0 := by
  decide

theorem witness_LengthAndLinearClocks : ∀ k ∈ [ChannelId.pulse1, .pulse2, .triangle, .noise], k ≠ .dmc := by decide

/-- The last step of each sequencer. -/
theorem witness_TimerTurns :
    (({ State.reset.apu with pulse2 := { Channel.reset with sequencer := 7 } } : Apu).channel .pulse2).sequencer < 8 ∧
      ({ State.reset.apu with triangle := { Channel.reset with sequencer := 31 } } : Apu).triangle.sequencer < 32 := by
  decide

theorem witness_NoiseShift : 13 < 14 ∧ (1 : BitVec 15) ≠ 0 ∧ 15 < 16 ∧ (1 : BitVec 17) ≠ 0 := by decide

/-- A DMC with two bytes left, one with its last byte that loops, and one with its last byte that does not. -/
theorem witness_DmcFetch :
    let a (n : Nat) : Apu := { State.reset.apu with dmcActive := true, dmcAddr := 0xFFFF, dmcLen := n }
    (a 2).dmcActive = true ∧ 1 < (a 2).dmcLen ∧ (a 1).dmcLen = 1 ∧ (((a 1).setReg 0x10 0x40).reg 0x10).getLsbD 6 = true ∧
      ((a 1).setReg 0x10 0x40).dmcLen = 1 ∧ ((a 1).reg 0x10).getLsbD 6 = false := by
  decide

/-- Silent by its enable, its length or a timer of 7; sounding with a timer of 8 at the last duty step. -/
theorem witness_PulseOutputs :
    let on (timer : Byte) (length : Nat) : Apu :=
      { (State.reset.apu.setReg 0x15 0x02).setReg 0x06 timer with
        pulse2 := { Channel.reset with lenCounter := length, sequencer := 7 } }
    let value (a : Apu) : Nat := ((a.reg (0x06 + 1)).toNat % 8) * 0x100 + (a.reg 0x06).toNat
    State.reset.apu.enabled .pulse2 = false ∧ (on 8 0).pulse2.lenCounter = 0 ∧ value (on 7 1) < 8 ∧
      (on 8 1).enabled .pulse2 = true ∧ ((on 8 1).channel .pulse2).lenCounter ≠ 0 ∧ 8 ≤ value (on 8 1) ∧
      ((on 8 1).channel .pulse2).sequencer < 8 := by
  decide

/-- The triangle at its last step; the noise silent by its enable or its length, and sounding. -/
theorem witness_PulseOutputs_others :
    let on (length : Nat) : Apu :=
      { State.reset.apu.setReg 0x15 0x08 with noise := { Channel.reset with lenCounter := length } }
    ({ State.reset.apu with triangle := { Channel.reset with sequencer := 31 } } : Apu).triangle.sequencer < 32 ∧
      State.reset.apu.enabled .noise = false ∧ (on 0).noise.lenCounter = 0 ∧
      (on 1).enabled .noise = true ∧ (on 1).noise.lenCounter ≠ 0 := by
  decide

theorem witness_DisabledChannelsSilent : ∀ k, State.reset.apu.enabled k = false := by
  intro k
  cases k <;> decide

theorem witness_ApuSampleStep : (host [.apuSample]).performing .apuSample [] := ⟨rfl, rfl⟩

theorem witness_EnvelopeShapes :
    Ay.initial.envPos = 0 ∧ Ay.initial.envRamp = false ∧ Ay.initial.envHolding = false := ⟨rfl, rfl, rfl⟩

theorem witness_ToneFlips : Ay.initial.sampleRateHz ≠ 0 := by decide

/-- A closed gate; both gates open with a fixed amplitude; both open with the envelope at its start. -/
theorem witness_AyGates :
    (¬ ((Ay.initial.tone .A).phase = true ∨ (Ay.initial.read 7).getLsbD 0 = true)) ∧
      ((Ay.initial.setReg 7 0x3F).read 7).getLsbD 2 = true ∧ ((Ay.initial.setReg 7 0x3F).read 7).getLsbD 5 = true ∧
      ((Ay.initial.setReg 7 0x3F).read 10).getLsbD 4 = false ∧
      (((Ay.initial.setReg 7 0x3F).setReg 10 0x10).read 10).getLsbD 4 = true := by
  decide

theorem witness_AyGates_envelope (a : Ay) (h : a = (((Ay.initial.setReg 7 0x3F).setReg 10 0x10).setReg 13 0x0C)) :
    a.envLevel = some 0 ∧ (0 : BitVec 5).toNat ≤ a.envStepMask.toNat := by
  subst h
  unfold Ay.envLevel Ay.envStepMask
  cases Ay.is8930 _ <;> decide

theorem witness_AySampleStep :
    (host [.aySample]).performing .aySample [] ∧ (host [.aySample]).ay.sampleRateHz ≠ 0 ∧
      ({ host [.aySample] with ay := Ay.initial.setSampleFrequency 0 } : State).ay.sampleRateHz = 0 :=
  ⟨⟨rfl, rfl⟩, by decide, rfl⟩

/-- A run in flight over the reset machine. -/
def running (r : Run) : State := { State.reset with host := { HostState.initial with run := some r } }

theorem witness_CallAndReturn :
    (host [.call 0x8000 (some 2) .boot]).memoryOk ∧
      (host [.call 0x8000 (some 2) .boot]).performing (.call 0x8000 (some 2) .boot) [] ∧
      (running { budget := some 0, purpose := .play 733 }).host.run = some { budget := some 0, purpose := .play 733 } ∧
      (running { budget := some 1, purpose := .boot }).host.run = some { budget := some 1, purpose := .boot } ∧
      (some 1 : Option Nat) ≠ some 0 ∧
      (running { budget := some 1, purpose := .boot }).cpu.sp = (running { budget := some 1, purpose := .boot }).cpu.stopSp :=
  ⟨rfl, ⟨rfl, rfl⟩, rfl, rfl, by decide, rfl⟩

theorem witness_CallAndReturn_nsf (h : NsfHeader) :
    (host [.nsfBoot h 0]).performing (.nsfBoot h 0) [] ∧ (host [.nsfPlay h]).performing (.nsfPlay h) [] :=
  ⟨⟨rfl, rfl⟩, rfl, rfl⟩

/-- PLAY out of budget ends the run; INIT's return boots (rules R361, R362, R366). -/
theorem test_run_purposes :
    stepOk (running { budget := some 0, purpose := .play 733 })
      (fun t => t.host.stopped && t.host.run == none && t.host.results == [.status 0]) = true ∧
      stepOk (running { budget := none, purpose := .boot })
        (fun t => !t.host.stopped && t.host.results == [.booted true, .status 1]) = true := by
  decide

/-- The scenario's own start: `sp = 0xEF`, `pc = 0x1234`, one RTS at 0x8000. -/
theorem witness_SingleRtsCall :
    let s (ops : List HostOp) : State :=
      { host ops with
        cpu := regs 0 0 0 0xEF 0 0x1234
        bus := { Bus.initial with blocks := [{ base := 0x8000, bytes := [0x60] }], mapperBase := 0x8000 } }
    (s []).memoryOk ∧ 0x8000 ≤ (0x8000 : Word).toNat ∧ memRead (s []) 0x8000 = 0x60 ∧
      (s [.call 0x8000 (some 2) .plain]).performing (.call 0x8000 (some 2) .plain) [] ∧
      (s [.call 0x8000 (some 1) .plain, .resume (some 1)]).performing (.call 0x8000 (some 1) .plain)
        [.resume (some 1)] :=
  ⟨rfl, by decide, by decide, ⟨rfl, rfl⟩, rfl, rfl⟩

theorem witness_ResetAndPower :
    (host [.power]).performing (if true then .power else .reset) [] ∧
      (host [.reset]).performing (if false then .power else .reset) [] :=
  ⟨⟨rfl, rfl⟩, rfl, rfl⟩

theorem witness_StepKeepsStored :
    (∃ t, step stored = .next t) ∧ stored.memoryOk ∧ stored.blocksOk ∧ stored.noiseOk :=
  ⟨⟨_, rfl⟩, witness_StoreResults,
    ⟨by decide, fun b h => (List.not_mem_nil h).elim, fun h => absurd rfl h⟩, by decide, by decide⟩

/-- An APU whose first pulse plays a length and whose DMC has one byte left. -/
theorem witness_StepKeepsApu :
    let a : Apu := { State.reset.apu.setReg 0x15 0x11 with
      pulse1 := { Channel.reset with lenCounter := 254, sequencer := 7 }, dmcActive := true, dmcLen := 1 }
    (∃ t, step { stored with apu := a } = .next t) ∧ a.ok := by
  refine ⟨⟨_, rfl⟩, ?_, ?_, ?_, ?_⟩
  · unfold Apu.framesOk
    decide
  · intro k _ h
    cases k <;> first | rfl | exact absurd h (by decide)
  · intro _
    decide
  · refine ⟨fun k => ?_, by decide, by decide, by decide, by decide, by decide, by decide, by decide⟩
    cases k <;> decide

end Sys2Proof.Tests
end

section
/-! SUPPORT and PROOF. Addition and subtraction with carry as arithmetic (rules R290, R291): what `addToA` leaves
alone, the overflow flag as a signed range, and the one's complement that turns ADC into SBC. -/

namespace Sys2Proof.Machine

/-! ## What the two instructions do to the state -/

/-- ADC adds its operand. -/
theorem exec_adc (m : Src) (s : State) :
    exec (.adc m) s = .next (addToA (srcValue m s) (advance (srcLength m) s)) := rfl

/-- SBC adds the one's complement of its operand. -/
theorem exec_sbc (m : Src) (s : State) :
    exec (.sbc m) s = .next (addToA (~~~srcValue m s) (advance (srcLength m) s)) := by
  rw [← BitVec.xor_allOnes]
  rfl

/-- `addToA` past an instruction of `n` bytes touches A, the flags and `pc` only. -/
theorem addToA_advance_onlyCpu (v : Byte) (n : Nat) (s : State) :
    OnlyCpu s (addToA v (advance n s)) { s.cpu with
      a := addResult s.cpu.a v s.cpu.p, p := addFlags s.cpu.a v s.cpu.p, pc := s.cpu.pc + BitVec.ofNat 16 n } := by
  simp [OnlyCpu, SameMemory]

/-! ## Overflow -/

/-- A byte as a signed number, by its sign. -/
theorem toInt_byte (v : Byte) : v.toInt = if 0x80 ≤ v.toNat then (v.toNat : Int) - 0x100 else v.toNat := by
  rw [BitVec.toInt_eq_msb_cond, BitVec.msb_eq_decide]
  simp

/-- Masking with 0x80 asks for bit 7. -/
theorem and_0x80_ne_zero (v : Byte) : ((v &&& 0x80#8) != 0#8) = v.getLsbD 7 := by
  have h : v &&& 0x80#8 = v &&& BitVec.twoPow 8 7 := rfl
  rw [h, BitVec.and_twoPow]
  cases v.getLsbD 7 <;> rfl

/-- The result of an addition as a number: the sum without its carry out. -/
theorem toNat_addResult (a m p : Byte) : (addResult a m p).toNat = addSum a m p % 0x100 :=
  BitVec.toNat_ofNat _ _

/-- The overflow flag compares signs: the operands agree and the result does not. -/
theorem getFlag_addFlags_V_signs (a m p : Byte) :
    getFlag (addFlags a m p) .V =
      (a.getLsbD 7 == m.getLsbD 7 && a.getLsbD 7 != (addResult a m p).getLsbD 7) := by
  have hV : getFlag (addFlags a m p) .V = (~~~(a ^^^ m) &&& (a ^^^ addResult a m p)).getLsbD 7 := by
    simp [addFlags, setNZ, and_0x80_ne_zero]
  rw [hV, BitVec.getLsbD_and, BitVec.getLsbD_not, BitVec.getLsbD_xor, BitVec.getLsbD_xor]
  cases a.getLsbD 7 <;> cases m.getLsbD 7 <;> rfl

/-- The overflow flag of an addition says that the signed sum does not fit in a byte. -/
theorem getFlag_addFlags_V (a m p : Byte) :
    getFlag (addFlags a m p) .V =
      decide (a.toInt + m.toInt + carryIn p < -128 ∨ 127 < a.toInt + m.toInt + carryIn p) := by
  have hc := carryIn_le p
  have ha := a.isLt
  have hm := m.isLt
  rw [getFlag_addFlags_V_signs, Bool.eq_iff_iff]
  simp only [getLsbD_seven, toNat_addResult, addSum, toInt_byte, Bool.and_eq_true, beq_iff_eq, bne_iff_ne, ne_eq,
    decide_eq_true_eq, decide_eq_decide]
  split <;> split <;> omega

/-! ## Subtraction as addition of the complement -/

/-- The borrow as a number: 1 when the carry is clear. -/
def borrowIn (p : Byte) : Nat := (!getFlag p .C).toNat

/-- Carry and borrow are each other's complement. -/
theorem carryIn_add_borrowIn (p : Byte) : carryIn p + borrowIn p = 1 := by
  unfold carryIn borrowIn
  cases getFlag p .C <;> rfl

/-- The signed value of the complement. -/
theorem toInt_complement (v : Byte) : (~~~v).toInt = -1 - v.toInt := by
  have hv := v.isLt
  rw [toInt_byte, toInt_byte, BitVec.toNat_not]
  split <;> split <;> omega

/-- The sum with the complement is the difference with borrow, raised by 0x100. -/
theorem addSum_complement (a v p : Byte) :
    (addSum a (~~~v) p : Int) = (a.toNat : Int) - v.toNat - borrowIn p + 0x100 := by
  have hv := v.isLt
  have hcb := carryIn_add_borrowIn p
  rw [addSum, BitVec.toNat_not]
  omega

/-- The result byte of a subtraction is the difference modulo 0x100. -/
theorem addResult_complement (a v p : Byte) :
    addResult a (~~~v) p = BitVec.ofInt 8 ((a.toNat : Int) - v.toNat - borrowIn p) := by
  apply BitVec.eq_of_toNat_eq
  have hsum := addSum_complement a v p
  rw [toNat_addResult, BitVec.toNat_ofInt]
  omega

/-- The carry of a subtraction says that nothing was borrowed. -/
theorem getFlag_addFlags_C_complement (a v p : Byte) :
    getFlag (addFlags a (~~~v) p) .C = decide (v.toNat + borrowIn p ≤ a.toNat) := by
  have hsum := addSum_complement a v p
  rw [(addFlags_after a (~~~v) p).1, decide_eq_decide]
  omega

/-- The overflow flag of a subtraction says that the signed difference does not fit in a byte. -/
theorem getFlag_addFlags_V_complement (a v p : Byte) :
    getFlag (addFlags a (~~~v) p) .V =
      decide (a.toInt - v.toInt - borrowIn p < -128 ∨ 127 < a.toInt - v.toInt - borrowIn p) := by
  have hcb := carryIn_add_borrowIn p
  rw [getFlag_addFlags_V, toInt_complement, decide_eq_decide]
  omega

/-! ## The obligations -/

/-- Settles O18: the flags of `addToA` by `addFlags_after`, and V by comparing signs. -/
theorem adcResult : Obligations.AdcResult := by
  intro m s
  obtain ⟨hC, hNZ, hSame⟩ := addFlags_after s.cpu.a (srcValue m s) s.cpu.p
  exact ⟨_, _, exec_adc m s, addToA_advance_onlyCpu _ _ s, hC, getFlag_addFlags_V _ _ _, hNZ, hSame⟩

/-- Settles O19: SBC is the addition of the complement, so each fact about ADC becomes one about the difference. -/
theorem sbcResult : Obligations.SbcResult := by
  intro m s
  obtain ⟨-, hNZ, hSame⟩ := addFlags_after s.cpu.a (~~~srcValue m s) s.cpu.p
  have hOnly := addToA_advance_onlyCpu (~~~srcValue m s) (srcLength m) s
  rw [addResult_complement] at hNZ hOnly
  exact ⟨_, _, exec_sbc m s, hOnly, getFlag_addFlags_C_complement _ _ _, getFlag_addFlags_V_complement _ _ _,
    hNZ, hSame⟩

end Sys2Proof.Machine
end

section
/-! SUPPORT. The stages of an APU sample, one by one: what each leaves of the channel records, of the frame sequencer
and of the noise register. -/

namespace Sys2Proof.Machine

/-! ## Loops and channel records -/

/-- Two loop bodies that agree on everything the loop passes through give the same loop. -/
theorem turns_congr {α : Type} (p : α → Prop) {f g : α → α} (hp : ∀ x, p x → p (f x)) (hfg : ∀ x, p x → f x = g x)
    (n : Nat) (x : α) (hx : p x) : turns f n x = turns g n x := by
  induction n generalizing x with
  | zero => rfl
  | succ n ih => rw [turns, turns, ih (f x) (hp x hx), hfg x hx]

/-- A body that fixes its start loops in place. -/
theorem turns_fixed {α : Type} {f : α → α} {x : α} (h : f x = x) (n : Nat) : turns f n x = x :=
  turns_keeps (· = x) f (fun y hy => by rw [hy, h]) n x rfl

@[simp] theorem setChannel_channel (a : Apu) (k : ChannelId) : a.setChannel k (a.channel k) = a := by
  cases k <;> rfl

@[simp] theorem setChannel_setChannel (a : Apu) (k : ChannelId) (c d : Channel) :
    (a.setChannel k c).setChannel k d = a.setChannel k d := by
  cases k <;> rfl

@[simp] theorem reg_setChannel (a : Apu) (k : ChannelId) (c : Channel) (i : BitVec 5) :
    (a.setChannel k c).reg i = a.reg i :=
  reg_of_regs (setChannel_regs a k c) i

@[simp] theorem enabled_setChannel (a : Apu) (k j : ChannelId) (c : Channel) :
    (a.setChannel k c).enabled j = a.enabled j :=
  enabled_of_regs (setChannel_regs a k c) j

/-- Reading one channel record after another was replaced, both cases at once. -/
theorem channel_setChannel (a : Apu) (k j : ChannelId) (c : Channel) :
    (a.setChannel k c).channel j = if j = k then c else a.channel j := by
  split
  case isTrue h => rw [h, channel_setChannel_same]
  case isFalse h => exact channel_setChannel_other a c h

/-! ## The clocks of the frame sequencer -/

/-- A length clock (rule R238) takes one from the length counter, down to 0, unless the halt bit is set. -/
theorem lengthClock_eq (a : Apu) (k : ChannelId) :
    a.lengthClock k = a.setChannel k { a.channel k with
      lenCounter :=
        if (a.reg k.controlReg).getLsbD k.haltBit then (a.channel k).lenCounter
        else (a.channel k).lenCounter - 1 } := by
  unfold Apu.lengthClock
  cases (a.reg k.controlReg).getLsbD k.haltBit with
  | true => exact (setChannel_channel a k).symm
  | false =>
    by_cases h : (a.channel k).lenCounter = 0
    · have hc : { a.channel k with lenCounter := 0 } = a.channel k := by rw [← h]
      simp [h, hc]
    · simp [h]

theorem linearClock_eq (a : Apu) :
    a.linearClock = a.setChannel .triangle { a.triangle with
      linearCounter :=
        if a.triangle.linearReloadFlag then (a.reg 0x08).toNat % 0x80 else a.triangle.linearCounter - 1
      linearReloadFlag := a.triangle.linearReloadFlag && (a.reg 0x08).getLsbD 7 } := by
  have hreload : ((a.reg 0x08).extractLsb' 0 7).toNat = (a.reg 0x08).toNat % 0x80 := by
    rw [extractLsb'_toNat_mod]
    simp
  have hflag : (if (a.reg 0x08).getLsbD 7 then a.triangle.linearReloadFlag else false) =
      (a.triangle.linearReloadFlag && (a.reg 0x08).getLsbD 7) := by
    cases (a.reg 0x08).getLsbD 7 <;> simp
  simp only [Apu.linearClock, Apu.setChannel, hreload, hflag]

@[simp] theorem envelopeClock_lastFrameCounter (a : Apu) (k : ChannelId) :
    (a.envelopeClock k).lastFrameCounter = a.lastFrameCounter := by simp [Apu.envelopeClock]
@[simp] theorem lengthClock_lastFrameCounter (a : Apu) (k : ChannelId) :
    (a.lengthClock k).lastFrameCounter = a.lastFrameCounter := by simp [lengthClock_eq]
@[simp] theorem linearClock_lastFrameCounter (a : Apu) : a.linearClock.lastFrameCounter = a.lastFrameCounter := by
  simp [linearClock_eq]
@[simp] theorem sweepClock_lastFrameCounter (a : Apu) (k : ChannelId) (i : BitVec 5) :
    (a.sweepClock k i).lastFrameCounter = a.lastFrameCounter := by simp [Apu.sweepClock]
@[simp] theorem quarterClocks_lastFrameCounter (a : Apu) : a.quarterClocks.lastFrameCounter = a.lastFrameCounter := by
  simp [Apu.quarterClocks]
@[simp] theorem halfClocks_lastFrameCounter (a : Apu) : a.halfClocks.lastFrameCounter = a.lastFrameCounter := by
  simp [Apu.halfClocks]

@[simp] theorem envelopeClock_noiseLfsr (a : Apu) (k : ChannelId) :
    (a.envelopeClock k).noiseLfsr = a.noiseLfsr := by simp [Apu.envelopeClock]
@[simp] theorem lengthClock_noiseLfsr (a : Apu) (k : ChannelId) :
    (a.lengthClock k).noiseLfsr = a.noiseLfsr := by simp [lengthClock_eq]
@[simp] theorem linearClock_noiseLfsr (a : Apu) : a.linearClock.noiseLfsr = a.noiseLfsr := by
  simp [linearClock_eq]
@[simp] theorem sweepClock_noiseLfsr (a : Apu) (k : ChannelId) (i : BitVec 5) :
    (a.sweepClock k i).noiseLfsr = a.noiseLfsr := by simp [Apu.sweepClock]
@[simp] theorem quarterClocks_noiseLfsr (a : Apu) : a.quarterClocks.noiseLfsr = a.noiseLfsr := by
  simp [Apu.quarterClocks]
@[simp] theorem halfClocks_noiseLfsr (a : Apu) : a.halfClocks.noiseLfsr = a.noiseLfsr := by
  simp [Apu.halfClocks]

/-- A frame step clocks channels and moves the phase; the divider is not its own. -/
@[simp] theorem frameStep_lastFrameCounter (a : Apu) : a.frameStep.lastFrameCounter = a.lastFrameCounter := by
  unfold Apu.frameStep
  simp only
  repeat' split
  all_goals simp

@[simp] theorem frameStep_noiseLfsr (a : Apu) : a.frameStep.noiseLfsr = a.noiseLfsr := by
  unfold Apu.frameStep
  simp only
  repeat' split
  all_goals simp

/-- The phase a frame step leaves: it starts again after 5 steps in the long mode, after 4 in the short one (rules R232,
R233). -/
theorem frameStep_frames (a : Apu) :
    a.frameStep.frames =
      if (if (a.reg 0x17).getLsbD 7 then 5 else 4) ≤ a.frames + 1 then 0 else a.frames + 1 := by
  unfold Apu.frameStep
  cases (a.reg 0x17).getLsbD 7 <;> simp

/-- The divider keeps what is left of the frame periods that were due (rule R231). -/
@[simp] theorem runFrames_lastFrameCounter (a : Apu) :
    a.runFrames.lastFrameCounter = a.lastFrameCounter % framePeriod :=
  turns_view Apu.lastFrameCounter _ frameStep_lastFrameCounter _ _

@[simp] theorem runFrames_noiseLfsr (a : Apu) : a.runFrames.noiseLfsr = a.noiseLfsr :=
  turns_view Apu.noiseLfsr _ frameStep_noiseLfsr _ _

/-- While no frame period is due, the phase stands. -/
theorem runFrames_frames_of_lt {a : Apu} (h : a.lastFrameCounter < framePeriod) : a.runFrames.frames = a.frames := by
  rw [Apu.runFrames, Nat.div_eq_of_lt h]
  rfl

/-! ## The timers -/

@[simp] theorem reduceCounter_frames (a : Apu) (k : ChannelId) : (a.reduceCounter k).frames = a.frames := by
  simp [Apu.reduceCounter]
@[simp] theorem reduceCounter_lastFrameCounter (a : Apu) (k : ChannelId) :
    (a.reduceCounter k).lastFrameCounter = a.lastFrameCounter := by simp [Apu.reduceCounter]
@[simp] theorem reduceCounter_noiseLfsr (a : Apu) (k : ChannelId) : (a.reduceCounter k).noiseLfsr = a.noiseLfsr := by
  simp [Apu.reduceCounter]

theorem reduceCounter_counter (a : Apu) (k j : ChannelId) :
    ((a.reduceCounter k).channel j).counter =
      if j = k then (a.channel k).counter % a.period k else (a.channel j).counter := by
  simp only [Apu.reduceCounter, channel_setChannel]
  split <;> rfl

/-- The pulse timers (rule R242): the whole of their effect, for a sequencer in range. -/
theorem pulseTimer_eq (a : Apu) (k : ChannelId) (h : (a.channel k).sequencer < 8) :
    a.pulseTimer k = a.setChannel k { a.channel k with
      counter := (a.channel k).counter % a.period k
      sequencer := ((a.channel k).sequencer + a.timerTurns k) % 8 } := by
  have hturns := turns_sequencer 8 (a.timerTurns k)
    { a.channel k with counter := (a.channel k).counter % a.period k } h
  simp only [Apu.pulseTimer, Apu.reduceCounter, channel_setChannel_same, setChannel_setChannel, hturns]

/-- One turn of the triangle's timer: the ramp steps while both counters run, and else stands (rule R244). -/
def rampStep (c : Channel) : Channel :=
  if c.lenCounter ≠ 0 ∧ c.linearCounter ≠ 0 then { c with sequencer := (c.sequencer + 1) % 32 } else c

theorem rampStep_of_runs {c : Channel} (h : c.lenCounter ≠ 0 ∧ c.linearCounter ≠ 0) :
    rampStep c = { c with sequencer := (c.sequencer + 1) % 32 } := if_pos h

theorem rampStep_of_stands {c : Channel} (h : ¬ (c.lenCounter ≠ 0 ∧ c.linearCounter ≠ 0)) : rampStep c = c := if_neg h

theorem rampStep_counter (c : Channel) : (rampStep c).counter = c.counter := by
  unfold rampStep
  split <;> rfl

theorem turns_rampStep (n : Nat) (c : Channel) (h : c.sequencer < 32) :
    turns rampStep n c = { c with
      sequencer := if c.lenCounter ≠ 0 ∧ c.linearCounter ≠ 0 then (c.sequencer + n) % 32 else c.sequencer } := by
  by_cases hrun : c.lenCounter ≠ 0 ∧ c.linearCounter ≠ 0
  · rw [if_pos hrun, ← turns_sequencer 32 n c h]
    refine turns_congr (fun c => c.lenCounter ≠ 0 ∧ c.linearCounter ≠ 0) ?_ (fun _ hx => rampStep_of_runs hx) n c hrun
    intro x hx
    rw [rampStep_of_runs hx]
    exact hx
  · rw [turns_fixed (rampStep_of_stands hrun), if_neg hrun]

/-- The triangle's timer turns `rampStep` (rule R244). -/
theorem triangleTimer_turns (a : Apu) :
    a.triangleTimer = (a.reduceCounter .triangle).setChannel .triangle
      (turns rampStep (a.timerTurns .triangle) ((a.reduceCounter .triangle).channel .triangle)) := rfl

/-- The triangle's timer: the whole of its effect, for a sequencer in range. -/
theorem triangleTimer_eq (a : Apu) (h : a.triangle.sequencer < 32) :
    a.triangleTimer = a.setChannel .triangle { a.triangle with
      counter := a.triangle.counter % a.period .triangle
      sequencer :=
        if a.triangle.lenCounter ≠ 0 ∧ a.triangle.linearCounter ≠ 0 then
          (a.triangle.sequencer + a.timerTurns .triangle) % 32
        else a.triangle.sequencer } := by
  have hturns := turns_rampStep (a.timerTurns .triangle)
    { a.triangle with counter := a.triangle.counter % a.period .triangle } h
  rw [← hturns]
  rfl

theorem noiseTimer_eq (a : Apu) :
    a.noiseTimer = { a with
      noise := { a.noise with counter := a.noise.counter % a.period .noise }
      noiseLfsr := turns (noiseShift ((a.reg 0x0E).getLsbD 7)) (a.timerTurns .noise) a.noiseLfsr } := rfl

theorem noiseTimer_noiseLfsr (a : Apu) :
    ∃ short n, a.noiseTimer.noiseLfsr = turns (noiseShift short) n a.noiseLfsr :=
  ⟨_, _, rfl⟩

/-- What of the APU no turn of the DMC's timer can change: all but the DMC's own playback state. -/
def Apu.outsideDmc (a : Apu) : Apu :=
  { a with
    dmc := { a.dmc with sequencer := 0 }, dmcActive := false, dmcAddr := 0, dmcLen := 0, dmcBuffer := 0
    dmcIrqFlag := false, dmcDelta := 0 }

theorem outsideDmc_frames (a : Apu) : a.outsideDmc.frames = a.frames := rfl
theorem outsideDmc_lastFrameCounter (a : Apu) : a.outsideDmc.lastFrameCounter = a.lastFrameCounter := rfl
theorem outsideDmc_noiseLfsr (a : Apu) : a.outsideDmc.noiseLfsr = a.noiseLfsr := rfl
theorem outsideDmc_counter (a : Apu) (k : ChannelId) :
    (a.outsideDmc.channel k).counter = (a.channel k).counter := by
  cases k <;> rfl

theorem dmcFetch_outsideDmc (b : Bus) (a : Apu) : (a.dmcFetch b).outsideDmc = a.outsideDmc := by
  unfold Apu.dmcFetch
  simp only
  repeat' split
  all_goals rfl

theorem dmcTick_outsideDmc (b : Bus) (a : Apu) : (a.dmcTick b).outsideDmc = a.outsideDmc := by
  have hbit : ∀ a : Apu, (if a.dmc.sequencer = 0 then a else a.dmcBit).outsideDmc = a.outsideDmc := by
    intro a
    split <;> rfl
  rw [Apu.dmcTick, hbit]
  split
  · exact dmcFetch_outsideDmc b a
  · rfl

theorem dmcTimer_outsideDmc (b : Bus) (a : Apu) : (a.dmcTimer b).outsideDmc = (a.reduceCounter .dmc).outsideDmc :=
  turns_view Apu.outsideDmc _ (dmcTick_outsideDmc b) _ _

/-! ## The timers leave the frame sequencer alone -/

@[simp] theorem pulseTimer_frames (a : Apu) (k : ChannelId) : (a.pulseTimer k).frames = a.frames := by
  simp [Apu.pulseTimer]
@[simp] theorem triangleTimer_frames (a : Apu) : a.triangleTimer.frames = a.frames := by
  simp [triangleTimer_turns]
@[simp] theorem noiseTimer_frames (a : Apu) : a.noiseTimer.frames = a.frames := by
  simp [noiseTimer_eq]
@[simp] theorem dmcTimer_frames (b : Bus) (a : Apu) : (a.dmcTimer b).frames = a.frames := by
  rw [← outsideDmc_frames, dmcTimer_outsideDmc, outsideDmc_frames, reduceCounter_frames]

@[simp] theorem pulseTimer_lastFrameCounter (a : Apu) (k : ChannelId) :
    (a.pulseTimer k).lastFrameCounter = a.lastFrameCounter := by simp [Apu.pulseTimer]
@[simp] theorem triangleTimer_lastFrameCounter (a : Apu) :
    a.triangleTimer.lastFrameCounter = a.lastFrameCounter := by simp [triangleTimer_turns]
@[simp] theorem noiseTimer_lastFrameCounter (a : Apu) : a.noiseTimer.lastFrameCounter = a.lastFrameCounter := by
  simp [noiseTimer_eq]
@[simp] theorem dmcTimer_lastFrameCounter (b : Bus) (a : Apu) :
    (a.dmcTimer b).lastFrameCounter = a.lastFrameCounter := by
  rw [← outsideDmc_lastFrameCounter, dmcTimer_outsideDmc, outsideDmc_lastFrameCounter, reduceCounter_lastFrameCounter]

@[simp] theorem pulseTimer_noiseLfsr (a : Apu) (k : ChannelId) : (a.pulseTimer k).noiseLfsr = a.noiseLfsr := by
  simp [Apu.pulseTimer]
@[simp] theorem triangleTimer_noiseLfsr (a : Apu) : a.triangleTimer.noiseLfsr = a.noiseLfsr := by
  simp [triangleTimer_turns]
@[simp] theorem dmcTimer_noiseLfsr (b : Bus) (a : Apu) : (a.dmcTimer b).noiseLfsr = a.noiseLfsr := by
  rw [← outsideDmc_noiseLfsr, dmcTimer_outsideDmc, outsideDmc_noiseLfsr, reduceCounter_noiseLfsr]

@[simp] theorem runFrames_period (a : Apu) (k : ChannelId) : a.runFrames.period k = a.period k :=
  period_of_regs (runFrames_regs a) k
@[simp] theorem pulseTimer_period (a : Apu) (k j : ChannelId) : (a.pulseTimer k).period j = a.period j :=
  period_of_regs (pulseTimer_regs a k) j
@[simp] theorem triangleTimer_period (a : Apu) (k : ChannelId) : a.triangleTimer.period k = a.period k :=
  period_of_regs (triangleTimer_regs a) k
@[simp] theorem noiseTimer_period (a : Apu) (k : ChannelId) : a.noiseTimer.period k = a.period k :=
  period_of_regs (noiseTimer_regs a) k

/-! ## Each timer leaves the remainder in its own counter -/

theorem pulseTimer_counter (a : Apu) (k j : ChannelId) :
    ((a.pulseTimer k).channel j).counter =
      if j = k then (a.channel k).counter % a.period k else (a.channel j).counter := by
  simp only [Apu.pulseTimer, Apu.reduceCounter, setChannel_setChannel, channel_setChannel_same, channel_setChannel]
  split
  · exact turns_view Channel.counter _ (by intro c; rfl) _ _
  · rfl

theorem triangleTimer_counter (a : Apu) (j : ChannelId) :
    (a.triangleTimer.channel j).counter =
      if j = .triangle then (a.channel .triangle).counter % a.period .triangle else (a.channel j).counter := by
  rw [← reduceCounter_counter, triangleTimer_turns, channel_setChannel]
  split
  case isTrue h => rw [turns_view Channel.counter _ rampStep_counter, h]
  case isFalse => rfl

theorem noiseTimer_counter (a : Apu) (j : ChannelId) :
    (a.noiseTimer.channel j).counter =
      if j = .noise then (a.channel .noise).counter % a.period .noise else (a.channel j).counter := by
  cases j <;> rfl

theorem dmcTimer_counter (b : Bus) (a : Apu) (j : ChannelId) :
    ((a.dmcTimer b).channel j).counter =
      if j = .dmc then (a.channel .dmc).counter % a.period .dmc else (a.channel j).counter := by
  rw [← outsideDmc_counter, dmcTimer_outsideDmc, outsideDmc_counter, reduceCounter_counter]

/-! ## The outputs write two fields of the channel records -/

@[simp] theorem pulseOutput_frames (a : Apu) (k : ChannelId) (lo : BitVec 5) :
    (a.pulseOutput k lo).frames = a.frames := by simp [Apu.pulseOutput]
@[simp] theorem pulseOutput_lastFrameCounter (a : Apu) (k : ChannelId) (lo : BitVec 5) :
    (a.pulseOutput k lo).lastFrameCounter = a.lastFrameCounter := by simp [Apu.pulseOutput]
@[simp] theorem pulseOutput_noiseLfsr (a : Apu) (k : ChannelId) (lo : BitVec 5) :
    (a.pulseOutput k lo).noiseLfsr = a.noiseLfsr := by simp [Apu.pulseOutput]

@[simp] theorem triangleOutput_frames (a : Apu) : a.triangleOutput.frames = a.frames := by simp [Apu.triangleOutput]
@[simp] theorem triangleOutput_lastFrameCounter (a : Apu) :
    a.triangleOutput.lastFrameCounter = a.lastFrameCounter := by simp [Apu.triangleOutput]
@[simp] theorem triangleOutput_noiseLfsr (a : Apu) : a.triangleOutput.noiseLfsr = a.noiseLfsr := by
  simp [Apu.triangleOutput]
@[simp] theorem noiseOutput_frames (a : Apu) : a.noiseOutput.frames = a.frames := by simp [Apu.noiseOutput]
@[simp] theorem noiseOutput_lastFrameCounter (a : Apu) :
    a.noiseOutput.lastFrameCounter = a.lastFrameCounter := by simp [Apu.noiseOutput]
@[simp] theorem noiseOutput_noiseLfsr (a : Apu) : a.noiseOutput.noiseLfsr = a.noiseLfsr := by simp [Apu.noiseOutput]
@[simp] theorem dmcOutput_frames (a : Apu) : a.dmcOutput.frames = a.frames := by simp [Apu.dmcOutput]
@[simp] theorem dmcOutput_lastFrameCounter (a : Apu) :
    a.dmcOutput.lastFrameCounter = a.lastFrameCounter := by simp [Apu.dmcOutput]
@[simp] theorem dmcOutput_noiseLfsr (a : Apu) : a.dmcOutput.noiseLfsr = a.noiseLfsr := by simp [Apu.dmcOutput]

@[simp] theorem outputs_frames (a : Apu) : a.outputs.frames = a.frames := by simp [Apu.outputs]
@[simp] theorem outputs_lastFrameCounter (a : Apu) : a.outputs.lastFrameCounter = a.lastFrameCounter := by
  simp [Apu.outputs]
@[simp] theorem outputs_noiseLfsr (a : Apu) : a.outputs.noiseLfsr = a.noiseLfsr := by simp [Apu.outputs]

theorem pulseOutput_counter (a : Apu) (k j : ChannelId) (lo : BitVec 5) :
    ((a.pulseOutput k lo).channel j).counter = (a.channel j).counter := by
  simp only [Apu.pulseOutput, channel_setChannel]
  split
  case isTrue h => split <;> rw [h]
  case isFalse => rfl

theorem triangleOutput_counter (a : Apu) (j : ChannelId) :
    (a.triangleOutput.channel j).counter = (a.channel j).counter := by
  cases j <;> rfl

theorem noiseOutput_counter (a : Apu) (j : ChannelId) :
    (a.noiseOutput.channel j).counter = (a.channel j).counter := by
  unfold Apu.noiseOutput
  cases j with
  | noise =>
    simp only [Apu.channel]
    split <;> rfl
  | _ => rfl

theorem dmcOutput_counter (a : Apu) (j : ChannelId) : (a.dmcOutput.channel j).counter = (a.channel j).counter := by
  cases j <;> rfl

theorem outputs_counter (a : Apu) (j : ChannelId) : (a.outputs.channel j).counter = (a.channel j).counter := by
  rw [Apu.outputs, dmcOutput_counter, noiseOutput_counter, triangleOutput_counter, pulseOutput_counter,
    pulseOutput_counter]

/-! ## The whole sample -/

theorem grant_channel (a : Apu) (k : ChannelId) :
    a.grant.channel k = { a.channel k with counter := (a.channel k).counter + cpuClockHz } := by
  cases k <;> rfl

@[simp] theorem grant_frames (a : Apu) : a.grant.frames = a.frames := rfl
@[simp] theorem grant_lastFrameCounter (a : Apu) :
    a.grant.lastFrameCounter = a.lastFrameCounter + cpuClockHz := rfl
@[simp] theorem grant_noiseLfsr (a : Apu) : a.grant.noiseLfsr = a.noiseLfsr := rfl

/-- The phase after a sample is the one its frame steps leave. -/
theorem sample_frames (b : Bus) (a : Apu) : (a.sample b).frames = a.runFrames.frames := by
  rw [Apu.sample, grant_frames]
  simp [Apu.sampleOutputs]

theorem sample_lastFrameCounter (b : Bus) (a : Apu) :
    (a.sample b).lastFrameCounter = a.lastFrameCounter % framePeriod + cpuClockHz := by
  rw [Apu.sample, grant_lastFrameCounter]
  simp [Apu.sampleOutputs]

/-- The noise register after a sample: only the noise timer turned it. -/
theorem sample_noiseLfsr (b : Bus) (a : Apu) :
    ∃ short n, (a.sample b).noiseLfsr = turns (noiseShift short) n a.noiseLfsr := by
  obtain ⟨short, n, h⟩ :=
    noiseTimer_noiseLfsr ((a.runFrames.pulseTimer .pulse1).pulseTimer .pulse2).triangleTimer
  refine ⟨short, n, ?_⟩
  rw [Apu.sample, grant_noiseLfsr]
  simp [Apu.sampleOutputs, h]

/-- A sample leaves in each counter the remainder modulo the period, and grants one sample's time (rules R242 to R250,
R255). -/
theorem sample_counter (b : Bus) (a : Apu) (k : ChannelId) :
    ((a.sample b).channel k).counter = (a.runFrames.channel k).counter % a.period k + cpuClockHz := by
  rw [Apu.sample, grant_channel, Apu.sampleOutputs]
  cases k <;>
    simp [outputs_counter, dmcTimer_counter, noiseTimer_counter, triangleTimer_counter, pulseTimer_counter]

end Sys2Proof.Machine
end

section
/-! PROOF. The statements about the stages of an APU sample and about the periods: frame sequencer, length and linear
counters, timers, noise registers, outputs. -/

namespace Sys2Proof.Machine

/-! ## The first frame step -/

/-- From reset, no frame period is due before the 185th sample (rule R231). -/
theorem turns_sample_reset (b : Bus) (volume n : Nat) (h : n ≤ 184) :
    (turns (Apu.sample b) n (Apu.resetWith volume)).frames = 0 ∧
      (turns (Apu.sample b) n (Apu.resetWith volume)).lastFrameCounter = n * 1789773 := by
  induction n with
  | zero => exact ⟨rfl, rfl⟩
  | succ n ih =>
    obtain ⟨hframes, hcounter⟩ := ih (by omega)
    have hnotDue : n * 1789773 < framePeriod := by
      simp only [framePeriod, framePeriodCycles, sampleRateHz]
      omega
    rw [turns_succ_outer, sample_frames, sample_lastFrameCounter, hcounter, Nat.mod_eq_of_lt hnotDue,
      runFrames_frames_of_lt (hcounter ▸ hnotDue)]
    refine ⟨hframes, ?_⟩
    rw [cpuClockHz]
    omega

/-- With one frame period due, the phase 0 becomes 1 in either mode. -/
theorem runFrames_frames_of_one_due {a : Apu} (hdue : a.lastFrameCounter / framePeriod = 1) (hframes : a.frames = 0) :
    a.runFrames.frames = 1 := by
  rw [Apu.runFrames, hdue, turns, turns, frameStep_frames]
  simp only [hframes]
  split <;> simp_all

/-- Settles O41: the divider counts up by induction, and 184 samples' time first holds a frame period. -/
theorem firstFrameStep : Obligations.FirstFrameStep := by
  intro b volume n
  refine ⟨turns_sample_reset b volume n, ?_⟩
  rintro rfl
  obtain ⟨hframes, hcounter⟩ := turns_sample_reset b volume 184 (by omega)
  show (turns (Apu.sample b) (184 + 1) (Apu.resetWith volume)).frames = 1
  rw [turns_succ_outer, sample_frames]
  refine runFrames_frames_of_one_due ?_ hframes
  rw [hcounter, framePeriod, framePeriodCycles, sampleRateHz]

/-! ## Length and linear counters -/

theorem haltBit_eq {k : ChannelId} : k.haltBit = if k = .triangle then 7 else 5 := by
  cases k <;> rfl

/-- Settles O43: the length counter by induction on the clocks, the linear counter by its equation. -/
theorem lengthAndLinearClocks : Obligations.LengthAndLinearClocks := by
  refine ⟨fun a k n _ => ?_, fun a => ?_⟩
  · rw [← haltBit_eq]
    induction n generalizing a with
    | zero => simp [turns]
    | succ n ih =>
      rw [turns, ih, reg_of_regs (lengthClock_regs a k), lengthClock_eq, channel_setChannel_same]
      cases (a.reg k.controlReg).getLsbD k.haltBit with
      | true => rfl
      | false =>
        simp only [Bool.false_eq_true, if_false]
        omega
  · have hdown : (if a.triangle.linearCounter > 0 then a.triangle.linearCounter - 1 else a.triangle.linearCounter) =
        a.triangle.linearCounter - 1 := by
      split <;> omega
    rw [hdown]
    exact linearClock_eq a

/-! ## Timers -/

/-- Settles O44: the timers' equations, and a remainder below the period plus one sample's time. -/
theorem timerTurns : Obligations.TimerTurns := by
  refine ⟨fun a k _ h => pulseTimer_eq a k h, triangleTimer_eq, fun b a k => ?_⟩
  have hrest : (a.runFrames.channel k).counter % a.period k < a.period k := Nat.mod_lt _ (period_pos a k)
  rw [sample_counter, period_of_regs (sample_regs b a), cpuClockHz]
  omega

/-! ## Noise registers -/

/-- Shift a register right by one and put a feedback bit in at the top: what both noise registers do. -/
def shiftInto {w : Nat} (feedback : Bool) (r : BitVec (w + 1)) : BitVec (w + 1) :=
  r >>> 1 ||| (if feedback then BitVec.twoPow (w + 1) w else 0)

theorem noiseShift_eq (short : Bool) (r : BitVec 15) :
    noiseShift short r = shiftInto (r.getLsbD 0 ^^ r.getLsbD (if short then 6 else 1)) r := by
  cases short <;> rfl

theorem ayNoiseShift_eq (r : BitVec 17) : ayNoiseShift r = shiftInto (r.getLsbD 0 ^^ r.getLsbD 3) r := rfl

theorem getLsbD_shiftInto {w : Nat} (feedback : Bool) (r : BitVec (w + 1)) (k : Nat) :
    (shiftInto feedback r).getLsbD k = if k = w then feedback else r.getLsbD (k + 1) := by
  rw [shiftInto, BitVec.getLsbD_or, BitVec.getLsbD_ushiftRight, Nat.add_comm 1 k]
  by_cases h : k = w
  · subst h
    cases feedback <;> simp
  · have h' : ¬ w = k := fun e => h e.symm
    cases feedback <;> simp [h, h']

/-- A register whose feedback is bit 0 against a higher bit is never shifted to zero: were the result zero, every bit
but bit 0 would have been clear, and then the feedback is bit 0 itself. -/
theorem shiftInto_ne_zero {w : Nat} (r : BitVec (w + 1)) {j : Nat} (hj : 0 < j) (hr : r ≠ 0) :
    shiftInto (r.getLsbD 0 ^^ r.getLsbD j) r ≠ 0 := by
  intro hzero
  have hbits : ∀ k, (if k = w then r.getLsbD 0 ^^ r.getLsbD j else r.getLsbD (k + 1)) = false := by
    intro k
    rw [← getLsbD_shiftInto, hzero]
    simp
  have hhigh : ∀ k, 0 < k → r.getLsbD k = false := by
    intro k hk
    by_cases hkw : k < w + 1
    · have hshifted := hbits (k - 1)
      rw [if_neg (by omega), Nat.sub_add_cancel hk] at hshifted
      exact hshifted
    · exact BitVec.getLsbD_of_ge r k (by omega)
  have hlow : r.getLsbD 0 = false := by
    have hfeedback := hbits w
    rw [if_pos rfl, hhigh j hj] at hfeedback
    simpa using hfeedback
  refine hr (BitVec.eq_of_getLsbD_eq fun k _ => ?_)
  rcases Nat.eq_zero_or_pos k with rfl | hk
  · simpa using hlow
  · simpa using hhigh k hk

/-- The APU's noise register is never shifted to zero, in short mode either (rule R246). -/
theorem noiseShift_ne_zero (short : Bool) {r : BitVec 15} (h : r ≠ 0) : noiseShift short r ≠ 0 := by
  rw [noiseShift_eq]
  exact shiftInto_ne_zero r (by cases short <;> decide) h

/-- Nor is the AY's (rule R173). -/
theorem ayNoiseShift_ne_zero {r : BitVec 17} (h : r ≠ 0) : ayNoiseShift r ≠ 0 :=
  shiftInto_ne_zero r (by decide) h

theorem noisePeriod_of_regs {a b : Ay} (hregs : b.regs = a.regs) (hrate : b.sampleRateHz = a.sampleRateHz) :
    b.noisePeriod = a.noisePeriod := by
  simp only [Ay.noisePeriod, Ay.scalePeriod, Ay.reg, hregs, hrate]

@[simp] theorem toneStep_noiseCounter (a : Ay) (c : AyChannel) : (a.toneStep c).noiseCounter = a.noiseCounter := by
  simp [Ay.toneStep]
@[simp] theorem toneStep_noiseLfsr (a : Ay) (c : AyChannel) : (a.toneStep c).noiseLfsr = a.noiseLfsr := by
  simp [Ay.toneStep]
@[simp] theorem toneStep_clockHz (a : Ay) (c : AyChannel) : (a.toneStep c).clockHz = a.clockHz := by
  simp [Ay.toneStep]
@[simp] theorem toneStep_noisePeriod (a : Ay) (c : AyChannel) : (a.toneStep c).noisePeriod = a.noisePeriod :=
  noisePeriod_of_regs (by simp [Ay.toneStep]) (by simp [Ay.toneStep])

@[simp] theorem envStep_noiseCounter (a : Ay) : a.envStep.noiseCounter = a.noiseCounter :=
  turns_view Ay.noiseCounter _ (fun a => by rw [envTick_view]) _ _
@[simp] theorem envStep_noiseLfsr (a : Ay) : a.envStep.noiseLfsr = a.noiseLfsr :=
  turns_view Ay.noiseLfsr _ (fun a => by rw [envTick_view]) _ _
@[simp] theorem envStep_clockHz (a : Ay) : a.envStep.clockHz = a.clockHz :=
  turns_view Ay.clockHz _ (fun a => by rw [envTick_view]) _ _

/-- The noise generator in one AY sample: one turn per period, and the remainder and the grant in its counter (rules
R170, R173). -/
theorem aySample_noise (a : Ay) :
    a.sample.noiseCounter = a.noiseCounter % a.noisePeriod + a.clockHz ∧
      a.sample.noiseLfsr = turns ayNoiseShift (a.noiseCounter / a.noisePeriod) a.noiseLfsr := by
  simp [Ay.sample, Ay.grant, Ay.generators, Ay.noiseStep]

/-- Settles O45: both registers are `shiftInto`, and each timer's equation names its turns. The name `noiseShift` itself
is the model's, so this one stands a namespace below. -/
theorem Settled.noiseShift : Obligations.NoiseShift := by
  refine ⟨fun short r => ⟨fun k hk => ?_, ?_, noiseShift_ne_zero short⟩,
    fun r => ⟨fun k hk => ?_, ?_, ayNoiseShift_ne_zero⟩, noiseTimer_eq, aySample_noise⟩
  · rw [noiseShift_eq, getLsbD_shiftInto, if_neg (by omega)]
  · rw [noiseShift_eq, getLsbD_shiftInto, if_pos rfl]
  · rw [ayNoiseShift_eq, getLsbD_shiftInto, if_neg (by omega)]
  · rw [ayNoiseShift_eq, getLsbD_shiftInto, if_pos rfl]

/-! ## Outputs -/

theorem duty_eq (control : Byte) {i : Nat} (h : i < 8) :
    dutyBit (control.extractLsb' 6 2) i = decide
      (([[0, 1, 0, 0, 0, 0, 0, 0], [0, 1, 1, 0, 0, 0, 0, 0], [0, 1, 1, 1, 1, 0, 0, 0], [1, 0, 0, 1, 1, 1, 1, 1]].getD
        (control.toNat / 64) []).getD i 0 = 1) := by
  have htable : ∀ (d : BitVec 2) (i : Fin 8), dutyBit d i = decide
      (([[0, 1, 0, 0, 0, 0, 0, 0], [0, 1, 1, 0, 0, 0, 0, 0], [0, 1, 1, 1, 1, 0, 0, 0], [1, 0, 0, 1, 1, 1, 1, 1]].getD
        d.toNat []).getD i 0 = 1) := by
    decide
  have hduty : (control.extractLsb' 6 2).toNat = control.toNat / 64 := by
    have := control.isLt
    rw [extractLsb'_toNat_mod]
    omega
  rw [← hduty]
  exact htable _ ⟨i, h⟩

/-- The level a pulse or noise channel plays, as a number (rule R249). -/
theorem playedVolume_toNat (a : Apu) (k : ChannelId) :
    (a.playedVolume k).toNat =
      if (a.reg k.controlReg).getLsbD 4 then (a.reg k.controlReg).toNat % 16 else (a.channel k).decayCounter.toNat := by
  simp only [Apu.playedVolume]
  split
  · simp
  · rfl

theorem timerValue_le (a : Apu) (lo : BitVec 5) : a.timerValue lo ≤ 0x7FF := by
  have := (a.reg lo).isLt
  rw [timerValue_eq]
  omega

/-- A pulse that is disabled, out of length or below the timer limit is silent (rule R243). -/
theorem pulseOutput_muted {a : Apu} {k : ChannelId} {lo : BitVec 5}
    (h : a.enabled k = false ∨ (a.channel k).lenCounter = 0 ∨ a.timerValue lo < 8) :
    a.pulseOutput k lo = a.setChannel k { a.channel k with output := 0 } := by
  refine congrArg (a.setChannel k) (if_pos ?_)
  rcases h with h | h | h <;> simp [h]

/-- A sounding pulse plays its volume while the duty is 1 (rule R243). -/
theorem pulseOutput_sounding {a : Apu} {k : ChannelId} {lo : BitVec 5} (hon : a.enabled k = true)
    (hlen : (a.channel k).lenCounter ≠ 0) (htimer : 8 ≤ a.timerValue lo) :
    a.pulseOutput k lo = a.setChannel k { a.channel k with
      volume := a.playedVolume k
      output :=
        if dutyBit ((a.reg k.controlReg).extractLsb' 6 2) (a.channel k).sequencer then
          scaledLevel (Config.pulseLevel (a.playedVolume k)) a.volumePercent
        else 0 } := by
  have hmax := timerValue_le a lo
  refine congrArg (a.setChannel k) (if_neg ?_)
  simp only [hon, hlen, Bool.not_true, Bool.false_or, beq_eq_false_iff_ne.2, Bool.or_eq_true, decide_eq_true_eq, ne_eq,
    not_false_eq_true]
  omega

theorem noiseOutput_muted {a : Apu} (h : a.enabled .noise = false ∨ a.noise.lenCounter = 0) :
    a.noiseOutput = { a with noise := { a.noise with output := 0 } } := by
  refine congrArg (a.setChannel .noise) (if_pos ?_)
  rcases h with h | h <;> simp [h]

theorem noiseOutput_sounding {a : Apu} (hon : a.enabled .noise = true) (hlen : a.noise.lenCounter ≠ 0) :
    a.noiseOutput = { a with noise := { a.noise with
      volume := a.playedVolume .noise
      output :=
        if a.noiseLfsr.getLsbD 0 then 0
        else scaledLevel (Config.noiseLevel (a.playedVolume .noise)) a.volumePercent } } := by
  refine congrArg (a.setChannel .noise) (if_neg ?_)
  simp [hon, hlen]

/-- Settles O47: muted and sounding are the two branches of each output. -/
theorem pulseOutputs : Obligations.PulseOutputs := by
  refine ⟨fun a k lo _ => ⟨fun h => ?_, fun hon hlen htimer hseq => ?_⟩, fun a _ => rfl,
    fun a => ⟨noiseOutput_muted, fun hon hlen => ?_⟩, fun a => rfl⟩
  · rw [← timerValue_eq] at h
    exact pulseOutput_muted h
  · rw [← timerValue_eq] at htimer
    refine ⟨a.playedVolume k, playedVolume_toNat a k, ?_⟩
    rw [pulseOutput_sounding hon hlen htimer, duty_eq _ hseq]
    simp only [decide_eq_true_eq, scaledLevel]
  · exact ⟨a.playedVolume .noise, playedVolume_toNat a .noise, noiseOutput_sounding hon hlen⟩

theorem pulseOutput_channel_other (a : Apu) {k j : ChannelId} (lo : BitVec 5) (h : j ≠ k) :
    (a.pulseOutput k lo).channel j = a.channel j :=
  channel_setChannel_other a _ h

theorem triangleOutput_channel_other (a : Apu) {j : ChannelId} (h : j ≠ .triangle) :
    a.triangleOutput.channel j = a.channel j :=
  channel_setChannel_other a (k := .triangle) _ h

theorem noiseOutput_channel_other (a : Apu) {j : ChannelId} (h : j ≠ .noise) :
    a.noiseOutput.channel j = a.channel j :=
  channel_setChannel_other a (k := .noise) _ h

theorem dmcOutput_channel_other (a : Apu) {j : ChannelId} (h : j ≠ .dmc) : a.dmcOutput.channel j = a.channel j :=
  channel_setChannel_other a (k := .dmc) _ h

theorem pulseOutput_disabled {a : Apu} {k : ChannelId} (lo : BitVec 5) (h : a.enabled k = false) :
    ((a.pulseOutput k lo).channel k).output = 0 := by
  rw [pulseOutput_muted (.inl h), channel_setChannel_same]

theorem triangleOutput_disabled {a : Apu} (h : a.enabled .triangle = false) :
    (a.triangleOutput.channel .triangle).output = 0 := by
  simp [Apu.triangleOutput, Apu.channel, h]

theorem noiseOutput_disabled {a : Apu} (h : a.enabled .noise = false) :
    (a.noiseOutput.channel .noise).output = 0 := by
  rw [noiseOutput_muted (.inl h)]
  rfl

theorem dmcOutput_disabled {a : Apu} (h : a.enabled .dmc = false) : (a.dmcOutput.channel .dmc).output = 0 := by
  simp [Apu.dmcOutput, Apu.channel, h]

/-- A disabled channel's output is 0 when the outputs are computed, and the channels after it leave it so. -/
theorem outputs_disabled {a : Apu} {k : ChannelId} (h : a.enabled k = false) : (a.outputs.channel k).output = 0 := by
  have on {b : Apu} (hregs : b.regs = a.regs) : b.enabled k = false := (enabled_of_regs hregs k).trans h
  rw [Apu.outputs]
  cases k with
  | pulse1 =>
    rw [dmcOutput_channel_other _ (by decide), noiseOutput_channel_other _ (by decide),
      triangleOutput_channel_other _ (by decide), pulseOutput_channel_other _ _ (by decide), pulseOutput_disabled _ h]
  | pulse2 =>
    rw [dmcOutput_channel_other _ (by decide), noiseOutput_channel_other _ (by decide),
      triangleOutput_channel_other _ (by decide), pulseOutput_disabled _ (on (by simp))]
  | triangle =>
    rw [dmcOutput_channel_other _ (by decide), noiseOutput_channel_other _ (by decide),
      triangleOutput_disabled (on (by simp))]
  | noise => rw [dmcOutput_channel_other _ (by decide), noiseOutput_disabled (on (by simp))]
  | dmc => exact dmcOutput_disabled (on (by simp))

theorem sampleOutputs_disabled (b : Bus) {a : Apu} {k : ChannelId} (h : a.enabled k = false) :
    ((a.sampleOutputs b).channel k).output = 0 :=
  outputs_disabled ((enabled_of_regs (by simp) k).trans h)

theorem mix_of_silent {a : Apu} (h : ∀ k, (a.channel k).output = 0) : a.mix = 0 := by
  have h1 : a.pulse1.output = 0 := h .pulse1
  have h2 : a.pulse2.output = 0 := h .pulse2
  have h3 : a.triangle.output = 0 := h .triangle
  have h4 : a.noise.output = 0 := h .noise
  have h5 : a.dmc.output = 0 := h .dmc
  simp [Apu.mix, h1, h2, h3, h4, h5]

/-- Settles O48: each output stage silences its disabled channel, and the mixer of five zeros is 0. -/
theorem disabledChannelsSilent : Obligations.DisabledChannelsSilent := by
  intro b a
  refine ⟨fun k h => ?_, fun h => ?_⟩
  · rw [Apu.sample, grant_channel]
    exact sampleOutputs_disabled b h
  · rw [Apu.sampleResult, mix_of_silent fun k => sampleOutputs_disabled b (h k)]
    rfl

/-! ## Periods -/

theorem noisePeriodTable_eq (i : BitVec 4) :
    noisePeriodTable i =
      [4, 8, 16, 32, 64, 96, 128, 160, 202, 254, 380, 508, 762, 1016, 2034, 4068].getD i.toNat 0 := by
  revert i
  decide

theorem dmcRateTable_eq (i : BitVec 4) :
    dmcRateTable i =
      [428, 380, 340, 320, 286, 254, 226, 214, 190, 160, 142, 128, 106, 84, 72, 54].getD i.toNat 0 := by
  revert i
  decide

theorem lowNibble_toNat (v : Byte) : (v.extractLsb' 0 4).toNat = v.toNat % 16 := by
  simp

/-- Settles O34: the timer value as arithmetic on its two registers, and the two tables entry by entry. -/
theorem periodsOfRegisters : Obligations.PeriodsOfRegisters := by
  intro a
  refine ⟨?_, ?_, ?_, ?_, ?_⟩
  · exact congrArg (fun n => 2 * (n + 1) * sampleRateHz) (timerValue_eq a 0x02)
  · exact congrArg (fun n => 2 * (n + 1) * sampleRateHz) (timerValue_eq a 0x06)
  · exact congrArg (fun n => (n + 1) * sampleRateHz) (timerValue_eq a 0x0A)
  · rw [Apu.period, noisePeriodTable_eq, lowNibble_toNat, Nat.mul_comm, sampleRateHz]
  · rw [Apu.period, dmcRateTable_eq, lowNibble_toNat, Nat.mul_comm, sampleRateHz]

end Sys2Proof.Machine
end

section
/-! SUPPORT and PROOF. Reset: the values right after it, and `reset()` and `power()` of the whole block. -/

namespace Sys2Proof.Machine

/-! ## The values after reset -/

@[simp] theorem reg_resetWith (volume : Nat) (i : BitVec 5) : (Apu.resetWith volume).reg i = 0 := by
  simp [Apu.reg, Apu.resetWith]

@[simp] theorem channel_resetWith (volume : Nat) (k : ChannelId) :
    (Apu.resetWith volume).channel k = Channel.reset := by
  cases k <;> rfl

/-- An APU after reset meets its invariants, whatever the volume. -/
theorem resetWith_ok (volume : Nat) : (Apu.resetWith volume).ok := by
  refine ⟨?_, fun k _ _ => by rw [channel_resetWith]; rfl, fun h => absurd h (by simp [Apu.resetWith]), fun k => ?_, ?_⟩
  · rw [Apu.framesOk, reg_resetWith]
    exact Nat.zero_lt_succ 3
  · rw [channel_resetWith]
    decide
  · simp [Apu.resetWith, Channel.reset]

theorem ayRead_initial (i : Nat) : Ay.initial.read i = 0 := by
  rw [Ay.read, show Ay.initial.regs = Vector.replicate 16 0 from rfl, Vector.toList_replicate]
  by_cases h : i < 16
  · rw [List.getD_replicate _ h]
  · rw [List.getD_eq_default _ _ (by simpa using h)]

theorem bankReg_of_zero {b : Bus} (h : b.bank = Vector.replicate 8 0) (i : BitVec 3) : b.bankReg i = 0 := by
  simp [Bus.bankReg, h]

/-- An address of RAM or battery RAM reads the same cell in every state. -/
theorem memRead_cell {a : Word} (h : a.toNat ≤ 0x1FFF ∨ (0x6000 ≤ a.toNat ∧ a.toNat ≤ 0x7FFF)) :
    ∃ k, ∀ s : State, memRead s a = Memory.get s.bus.mem k := by
  rcases h with h | ⟨h, h'⟩
  · exact ⟨a.toNat % 0x0800, fun s => by rw [memRead, Bus.read, region_ram h]⟩
  · exact ⟨a.toNat, fun s => by rw [memRead, Bus.read, region_bram h h']⟩

/-- Where nothing is stored, RAM and battery RAM read 0. -/
theorem memRead_of_no_memory {s : State} (hs : s.bus.mem = []) {a : Word}
    (h : a.toNat ≤ 0x1FFF ∨ (0x6000 ≤ a.toNat ∧ a.toNat ≤ 0x7FFF)) : memRead s a = 0 := by
  obtain ⟨k, hk⟩ := memRead_cell h
  rw [hk, hs]
  rfl

theorem reset_blocksOk : State.reset.blocksOk :=
  ⟨by decide, fun _ h => absurd h List.not_mem_nil, fun h => absurd rfl h⟩

theorem reset_noiseOk : State.reset.noiseOk := ⟨by decide, by decide⟩

/-- Settles O58: the registers, channels, reads and invariants by their lemmas, every other field by its definition. -/
theorem resetState : Obligations.ResetState := by
  refine ⟨rfl, reg_resetWith 100, channel_resetWith 100, rfl, rfl, rfl, rfl, rfl, rfl, rfl, rfl, rfl, rfl, rfl, rfl,
    rfl, ayRead_initial, fun c => by cases c <;> rfl, rfl, rfl, rfl, rfl, rfl, rfl, rfl, rfl, rfl, rfl, rfl, rfl,
    bankReg_of_zero rfl, rfl, ?_, ?_, reset_memory_wf, reset_blocksOk, reset_noiseOk, resetWith_ok 100⟩
  · exact fun a h => memRead_of_no_memory rfl (.inl h)
  · exact fun a h h' => memRead_of_no_memory rfl (.inr ⟨h, h'⟩)

/-! ## `reset()` and `power()` of the whole block -/

/-- The block after `power()` or `reset()` (rule R351). -/
def resetOrPower (power : Bool) (s : State) : State := if power then powerBlock s else resetBlock s

theorem step_resetOrPower {s : State} {rest : List HostOp} {power : Bool}
    (h : s.performing (if power then .power else .reset) rest) :
    step s = .next (resetOrPower power (s.withQueue rest)) := by
  cases power <;> exact step_op h

theorem resetOrPower_idem (power : Bool) (s : State) (rest : List HostOp) :
    resetOrPower power ((resetOrPower power s).withQueue rest) = (resetOrPower power s).withQueue rest := by
  cases power <;> rfl

theorem resetOrPower_host (power : Bool) (s : State) : (resetOrPower power s).host = s.host := by
  cases power <;> rfl

/-- What `reset()` keeps of the bus; `power()` keeps the same but the memory (rule R59). -/
theorem resetOrPower_bus (power : Bool) (s : State) :
    (resetOrPower power s).bus = { s.bus with
      mem := if power then [] else s.bus.mem, bank := Vector.replicate 8 0, bankingEnabled := false } := by
  cases power <;> rfl

/-- Settles O57: field by field, the memory by the cell its address selects. -/
theorem resetAndPower : Obligations.ResetAndPower := by
  intro s rest power h
  have hbus := resetOrPower_bus power (s.withQueue rest)
  refine ⟨_, step_resetOrPower h, ?_, ?_, ?_, ?_, ?_, ?_, ?_, ?_, fun a ha => ?_, ?_⟩
  · cases power <;> rfl
  · exact resetOrPower_host power _
  · cases power <;> rfl
  · cases power <;> rfl
  · rw [hbus]
  · exact bankReg_of_zero (by rw [hbus])
  · rw [hbus]
    rfl
  · rw [hbus]
    rfl
  · obtain ⟨k, hk⟩ := memRead_cell ha
    rw [hk, hk, hbus]
    cases power <;> rfl
  · have hrun : (resetOrPower power (s.withQueue rest)).host.run = none := by
      rw [resetOrPower_host]
      exact h.1
    exact ⟨_, step_resetOrPower ⟨hrun, rfl⟩, resetOrPower_idem power _ []⟩

end Sys2Proof.Machine
end

section
/-! SUPPORT. What one instruction does to the CPU's own registers, said once for every instruction: the flags it may
write, the stop marker it keeps, and whether it moves `sp`. -/

namespace Sys2Proof.Machine

/-! ## Flags left alone -/

theorem SameFlagsBut.refl (fs : List Flag) (p : Byte) : SameFlagsBut fs p p := fun _ _ => rfl

/-- Writing one of the listed flags. -/
theorem SameFlagsBut.setFlag {fs : List Flag} {p q : Byte} (h : SameFlagsBut fs p q) {f : Flag} (hf : f ∈ fs)
    (b : Bool) : SameFlagsBut fs p (setFlag q f b) := by
  intro g hg
  have hne : g ≠ f := by
    rintro rfl
    exact hg hf
  rw [getFlag_setFlag_other q b hne]
  exact h g hg

theorem SameFlagsBut.mono {fs gs : List Flag} {p q : Byte} (h : SameFlagsBut fs p q) (hsub : fs ⊆ gs) :
    SameFlagsBut gs p q :=
  fun f hf => h f fun hmem => hf (hsub hmem)

/-- A flag that differs is among those written. -/
theorem SameFlagsBut.mem_of_ne {fs : List Flag} {p q : Byte} (h : SameFlagsBut fs p q) {f : Flag}
    (hne : getFlag q f ≠ getFlag p f) : f ∈ fs :=
  by_contra fun hf => hne (h f hf)

theorem compareFlags_same (r m p : Byte) : SameFlagsBut [.C, .Z, .N] p (compareFlags r m p) :=
  (((SameFlagsBut.refl _ p).setFlag (by decide) _).setFlag (by decide) _).setFlag (by decide) _

theorem bitFlags_same (a m p : Byte) : SameFlagsBut [.Z, .N, .V] p (bitFlags a m p) :=
  (((SameFlagsBut.refl _ p).setFlag (by decide) _).setFlag (by decide) _).setFlag (by decide) _

/-! ## The two tables of instructions -/

/-- The flags an instruction may write (rules R23, R24 and each instruction's own rule). -/
def flagsWritten (i : Instr) : List Flag :=
  match i with
  | .adc _ | .sbc _ => [.C, .V, .Z, .N]
  | .bit _ => [.Z, .N, .V]
  | .cmp _ | .cpx _ | .cpy _ | .asl _ | .lsr _ | .rol _ | .ror _ => [.C, .Z, .N]
  | .and _ | .ora _ | .eor _ | .lda _ | .ldx _ | .ldy _ | .inc _ | .dec _ | .inx | .iny | .dex | .dey | .tax | .tay
  | .txa | .tya | .pla => [.Z, .N]
  | .clc | .sec => [.C]
  | .brk => [.I]
  | _ => []

/-- Whether an instruction uses the stack (rule R21). -/
def movesSp (i : Instr) : Bool :=
  match i with
  | .pha | .pla | .jsr _ | .rts | .brk => true
  | _ => false

/-- What instruction `i`, taking `s` to `t`, does to the CPU's flags and stack registers, and that only register
commands reach the AY. -/
structure CpuEffect (i : Instr) (s t : State) : Prop where
  flags : SameFlagsBut (flagsWritten i) s.cpu.p t.cpu.p
  stopSp : t.cpu.stopSp = s.cpu.stopSp
  sp : movesSp i = false → t.cpu.sp = s.cpu.sp
  ay : i.isCpu = true → t.ay = s.ay

/-- An instruction that writes none of the flags and registers this is about. -/
theorem CpuEffect.of_cpu {i : Instr} {s t : State} (hp : t.cpu.p = s.cpu.p) (hstop : t.cpu.stopSp = s.cpu.stopSp)
    (hsp : movesSp i = false → t.cpu.sp = s.cpu.sp) (hay : i.isCpu = true → t.ay = s.ay) : CpuEffect i s t :=
  ⟨fun f _ => by rw [hp], hstop, hsp, hay⟩

theorem cpuEffect_shiftTo {i : Instr} (hi : flagsWritten i = [.C, .Z, .N]) (g : Tgt) (v : Byte) (c : Bool) (s : State) :
    CpuEffect i s (shiftTo g v c s) := by
  have hflags : SameFlagsBut (flagsWritten i) s.cpu.p (setCNZ c v s.cpu.p) := hi ▸ (setCNZ_after c v s.cpu.p).2.2
  cases g with
  | acc => exact ⟨hflags, rfl, fun _ => rfl, fun _ => rfl⟩
  | mem m => exact ⟨hflags, by simp [shiftTo, writeBack], by simp [shiftTo, writeBack], by simp [shiftTo, writeBack]⟩

theorem cpuEffect_branchIf (i : Instr) (b : Bool) (d : Byte) (s : State) : CpuEffect i s (branchIf b d s) := by
  cases b <;> exact .of_cpu rfl rfl (fun _ => rfl) fun _ => rfl

theorem cpuEffect_storeByte (i : Instr) (m : MemMode) (v : Byte) (s : State) : CpuEffect i s (storeByte m v s) :=
  .of_cpu (by simp [storeByte]) (by simp [storeByte]) (by simp [storeByte]) (by simp [storeByte])

theorem cpuEffect_addToMemory {i : Instr} (hi : flagsWritten i = [.Z, .N]) (d : Byte) (m : MemMode) (s : State) :
    CpuEffect i s (addToMemory d m s) :=
  ⟨hi ▸ (setNZ_after _ s.cpu.p).2, by simp [addToMemory], by simp [addToMemory], by simp [addToMemory]⟩

/-- The trap sets I in `p` and keeps every other flag: B and U are set in the pushed copy alone (rule R328). -/
theorem takeTrap_p (r vector : Word) (s : State) : (takeTrap r vector s).cpu.p = setFlag s.cpu.p .I true := by
  simp [takeTrap, push16]

theorem exec_brk (s : State) : exec .brk s = .next (takeTrap (advance 2 s).cpu.pc 0xFFFE (advance 2 s)) := rfl

theorem cpuEffect_takeTrap (r vector : Word) (s : State) : CpuEffect .brk s (takeTrap r vector (advance 2 s)) := by
  refine ⟨?_, by simp [takeTrap, push16], nofun, by simp [takeTrap, push16]⟩
  rw [takeTrap_p]
  exact (SameFlagsBut.refl _ s.cpu.p).setFlag (by decide) true

/-- Every instruction keeps to its row of the two tables. -/
theorem exec_cpuEffect (i : Instr) (s : State) : ∃ t, exec i s = .next t ∧ CpuEffect i s t := by
  cases i with
  | adc m | sbc m => exact ⟨_, rfl, (addFlags_after _ _ _).2.2, rfl, fun _ => rfl, fun _ => rfl⟩
  | bit m => exact ⟨_, rfl, bitFlags_same _ _ _, rfl, fun _ => rfl, fun _ => rfl⟩
  | cmp m | cpx m | cpy m => exact ⟨_, rfl, compareFlags_same _ _ _, rfl, fun _ => rfl, fun _ => rfl⟩
  | asl g | lsr g | rol g | ror g => exact ⟨_, rfl, cpuEffect_shiftTo rfl _ _ _ _⟩
  | and m | ora m | eor m | lda m | ldx m | ldy m =>
    exact ⟨_, rfl, (setNZ_after _ _).2, rfl, fun _ => rfl, fun _ => rfl⟩
  | inx | iny | dex | dey | tax | tay | txa | tya =>
    exact ⟨_, rfl, (setNZ_after _ _).2, rfl, fun _ => rfl, fun _ => rfl⟩
  | pla => exact ⟨_, rfl, (setNZ_after _ _).2, rfl, nofun, fun _ => rfl⟩
  | inc m | dec m => exact ⟨_, rfl, cpuEffect_addToMemory rfl _ _ _⟩
  | clc | sec => exact ⟨_, rfl, (SameFlagsBut.refl _ _).setFlag (by decide) _, rfl, fun _ => rfl, fun _ => rfl⟩
  | bpl d | bmi d | bcc d | bcs d | bne d | beq d => exact ⟨_, rfl, cpuEffect_branchIf _ _ _ _⟩
  | sta m | stx m | sty m => exact ⟨_, rfl, cpuEffect_storeByte _ _ _ _⟩
  | pha => exact ⟨_, rfl, .of_cpu (by simp) (by simp) nofun (by simp)⟩
  | jsr w => exact ⟨_, rfl, .of_cpu (by simp [push16]) (by simp [push16]) nofun (by simp [push16])⟩
  | brk => exact ⟨_, rfl, cpuEffect_takeTrap _ _ _⟩
  | rts => exact ⟨_, rfl, .of_cpu rfl rfl nofun fun _ => rfl⟩
  | jmp j => exact ⟨_, rfl, .of_cpu rfl rfl (fun _ => rfl) fun _ => rfl⟩
  | nop => exact ⟨_, rfl, .of_cpu rfl rfl (fun _ => rfl) fun _ => rfl⟩
  | _ => exact ⟨_, rfl, .of_cpu rfl rfl (fun _ => rfl) nofun⟩

theorem cpuEffect_of_exec {i : Instr} {s t : State} (h : exec i s = .next t) : CpuEffect i s t := by
  obtain ⟨u, hu, heffect⟩ := exec_cpuEffect i s
  rw [hu] at h
  cases h
  exact heffect

theorem changed_of_exec {i : Instr} {s t : State} (h : exec i s = .next t) : Changed s t := by
  obtain ⟨u, hu, hchanged⟩ := exec_changed i s
  rw [hu] at h
  cases h
  exact hchanged

/-! ## Reading the tables -/

theorem flagsWritten_subset (i : Instr) : flagsWritten i ⊆ [.C, .Z, .I, .V, .N] := by
  unfold flagsWritten
  split <;> decide

theorem eq_brk_of_writes_I {i : Instr} (h : Flag.I ∈ flagsWritten i) : i = .brk := by
  cases i with
  | brk => rfl
  | _ => simp [flagsWritten] at h

theorem of_writes_V {i : Instr} (h : Flag.V ∈ flagsWritten i) : ∃ m n, i = .adc m ∨ i = .sbc m ∨ i = .bit n := by
  cases i with
  | adc m => exact ⟨m, .zp 0, .inl rfl⟩
  | sbc m => exact ⟨m, .zp 0, .inr (.inl rfl)⟩
  | bit n => exact ⟨.imm 0, n, .inr (.inr rfl)⟩
  | _ => simp [flagsWritten] at h

theorem of_writes_C {i : Instr} (h : Flag.C ∈ flagsWritten i) :
    i = .clc ∨ i = .sec ∨ ∃ m g, i = .adc m ∨ i = .sbc m ∨ i = .cmp m ∨ i = .cpx m ∨ i = .cpy m ∨ i = .asl g ∨
      i = .lsr g ∨ i = .rol g ∨ i = .ror g := by
  cases i with
  | clc => exact .inl rfl
  | sec => exact .inr (.inl rfl)
  | adc m | sbc m | cmp m | cpx m | cpy m => exact .inr (.inr ⟨m, .acc, by simp⟩)
  | asl g | lsr g | rol g | ror g => exact .inr (.inr ⟨.imm 0, g, by simp⟩)
  | _ => simp [flagsWritten] at h

theorem of_movesSp {i : Instr} (h : movesSp i = true) :
    i = .pha ∨ i = .pla ∨ i = .rts ∨ i = .brk ∨ ∃ w, i = .jsr w := by
  cases i with
  | pha | pla | rts | brk | jsr w => simp
  | _ => cases h

/-- Settles O30: a flag that changed is in the instruction's row of `flagsWritten`. -/
theorem flagWriters : Obligations.FlagWriters := by
  intro i s t _ h
  have hflags := (cpuEffect_of_exec h).flags
  refine ⟨hflags.mono (flagsWritten_subset i), fun hI => ?_, fun hV => of_writes_V (hflags.mem_of_ne hV),
    fun hC => of_writes_C (hflags.mem_of_ne hC)⟩
  obtain rfl := eq_brk_of_writes_I (hflags.mem_of_ne hI)
  rw [exec_brk, Host.Outcome.next.injEq] at h
  exact ⟨rfl, by rw [← h, takeTrap_p, getFlag_setFlag_same]⟩

end Sys2Proof.Machine
end

section
/-! SUPPORT. The invariant of the APU channel by channel, and the register writes: what a write of any register
keeps. -/

namespace Sys2Proof.Machine

/-! ## The invariant, channel by channel -/

/-- The last step of a channel's sequencer (rule R31); the noise channel has none. -/
def ChannelId.lastStep : ChannelId → Option Nat
  | .pulse1 => some 7
  | .pulse2 => some 7
  | .triangle => some 31
  | .noise => none
  | .dmc => some 8

/-- What the APU's invariants say of the record of channel `k`, `on` being the channel's enable. -/
structure Channel.Fits (k : ChannelId) (on : Bool) (c : Channel) : Prop where
  len : c.lenCounter ≤ 254
  output : c.output ≤ 0xFFFF
  sweep : c.sweepCounter ≤ 7
  silent : k ≠ .dmc → on = false → c.lenCounter = 0
  sequencer : ∀ n, k.lastStep = some n → c.sequencer ≤ n
  linear : k = .triangle → c.linearCounter ≤ 127

/-- The APU's invariants with those of the channels gathered by channel. -/
structure Apu.Fits (a : Apu) : Prop where
  phase : a.framesOk
  channels : ∀ k, (a.channel k).Fits k (a.enabled k)
  playing : a.dmcOk
  dmcLen : a.dmcLen ≤ 4081
  dmcDelta : a.dmcDelta ≤ 127

theorem Apu.fits_iff_ok (a : Apu) : a.Fits ↔ a.ok := by
  constructor
  · intro h
    refine ⟨h.phase, fun k => (h.channels k).silent, h.playing,
      fun k => ⟨(h.channels k).len, (h.channels k).output, (h.channels k).sweep⟩, ?_⟩
    exact ⟨(h.channels .pulse1).sequencer 7 rfl, (h.channels .pulse2).sequencer 7 rfl,
      (h.channels .triangle).sequencer 31 rfl, (h.channels .dmc).sequencer 8 rfl, (h.channels .triangle).linear rfl,
      h.dmcLen, h.dmcDelta⟩
  · rintro ⟨hphase, hsilent, hplaying, hrange, hpulse1, hpulse2, htriangle, hdmc, hlinear, hlen, hdelta⟩
    refine ⟨hphase, fun k => ?_, hplaying, hlen, hdelta⟩
    obtain ⟨hlen, hout, hsweep⟩ := hrange k
    refine ⟨hlen, hout, hsweep, hsilent k, fun n hn => ?_, ?_⟩
    · cases k <;> cases hn <;> assumption
    · rintro rfl
      exact hlinear

/-- Replacing one channel record by one that fits. -/
theorem Apu.Fits.setChannel {a : Apu} (h : a.Fits) {k : ChannelId} {c : Channel} (hc : c.Fits k (a.enabled k)) :
    (a.setChannel k c).Fits := by
  refine ⟨?_, fun j => ?_, ?_, ?_, ?_⟩
  · simpa [Apu.framesOk] using h.phase
  · rw [channel_setChannel, enabled_setChannel]
    split
    case isTrue e => exact e ▸ hc
    case isFalse => exact h.channels j
  · simpa [Apu.dmcOk] using h.playing
  · simpa using h.dmcLen
  · simpa using h.dmcDelta

/-- Storing into a register that is neither the enables nor the frame counter. -/
theorem Apu.Fits.setReg {a : Apu} (h : a.Fits) {i : BitVec 5} (hi : i ≠ 0x15) (hi' : i ≠ 0x17) (v : Byte) :
    (a.setReg i v).Fits := by
  refine ⟨?_, fun k => ?_, h.playing, h.dmcLen, h.dmcDelta⟩
  · have hframes := h.phase
    unfold Apu.framesOk at hframes ⊢
    rw [reg_setReg, if_neg hi'.symm]
    exact hframes
  · have hchannel := h.channels k
    unfold Apu.enabled at hchannel ⊢
    rw [reg_setReg, if_neg hi.symm, channel_setReg]
    exact hchannel

theorem lengthTable_le (i : BitVec 5) : lengthTable i ≤ 254 := by
  revert i
  decide

/-- A loaded length belongs to an enabled channel and is in the table (rules R191, R220). -/
theorem Apu.Fits.loadLength {a : Apu} (h : a.Fits) (k : ChannelId) (v : Byte) : (a.loadLength k v).Fits := by
  unfold Apu.loadLength
  split
  case isTrue hon =>
    exact h.setChannel { h.channels k with
      len := lengthTable_le _, silent := fun _ hoff => absurd (hon.symm.trans hoff) (by decide) }
  case isFalse => exact h

/-! ## What a register write keeps -/

/-- From `a` to `b` by a register write: the timers stand, the noise register stands or is reset to 1, and the
invariants are kept. -/
structure Written (a b : Apu) : Prop where
  lastFrameCounter : b.lastFrameCounter = a.lastFrameCounter
  counter : ∀ k, (b.channel k).counter = (a.channel k).counter
  noiseLfsr : b.noiseLfsr = a.noiseLfsr ∨ b.noiseLfsr = 1
  fits : a.Fits → b.Fits

theorem Written.trans {a b c : Apu} (h : Written a b) (h' : Written b c) : Written a c where
  lastFrameCounter := h'.lastFrameCounter.trans h.lastFrameCounter
  counter k := (h'.counter k).trans (h.counter k)
  noiseLfsr := by
    rcases h'.noiseLfsr with e | e
    · rw [e]
      exact h.noiseLfsr
    · exact .inr e
  fits hfits := h'.fits (h.fits hfits)

theorem Written.setReg (a : Apu) {i : BitVec 5} (hi : i ≠ 0x15) (hi' : i ≠ 0x17) (v : Byte) :
    Written a (a.setReg i v) :=
  ⟨rfl, fun k => by rw [channel_setReg], .inl rfl, fun h => h.setReg hi hi' v⟩

theorem Written.setChannel (a : Apu) (k : ChannelId) {c : Channel} (hcounter : c.counter = (a.channel k).counter)
    (hfits : a.Fits → c.Fits k (a.enabled k)) : Written a (a.setChannel k c) where
  lastFrameCounter := by simp
  counter j := by
    rw [channel_setChannel]
    split
    case isTrue e => rw [hcounter, e]
    case isFalse => rfl
  noiseLfsr := .inl (by simp)
  fits h := h.setChannel (hfits h)

theorem Written.loadLength (a : Apu) (k : ChannelId) (v : Byte) : Written a (a.loadLength k v) := by
  refine ⟨?_, ?_, ?_, fun h => h.loadLength k v⟩ <;> unfold Apu.loadLength <;> split
  · simp
  · rfl
  · intro j
    rw [channel_setChannel]
    split
    case isTrue e => rw [e]
    case isFalse => rfl
  · exact fun _ => rfl
  · simp
  · exact .inl rfl

/-- Restarting an envelope leaves the record in its ranges, and so does putting the sequencer back to 0. -/
theorem written_writePulseLength (a : Apu) (k : ChannelId) {i : BitVec 5} (hi : i ≠ 0x15) (hi' : i ≠ 0x17) (v : Byte) :
    Written a (a.writePulseLength k i v) :=
  ((Written.setReg a hi hi' v).trans (.loadLength _ k v)).trans
    (.setChannel _ k rfl fun h => { h.channels k with sequencer := fun _ _ => Nat.zero_le _ })

theorem written_writeTriangleLength (a : Apu) (v : Byte) : Written a (a.writeTriangleLength v) :=
  ((Written.setReg a (by decide) (by decide) v).trans (.loadLength _ .triangle v)).trans
    (.setChannel _ .triangle rfl fun h => { h.channels .triangle with })

theorem written_writeNoiseLength (a : Apu) (v : Byte) : Written a (a.writeNoiseLength v) :=
  ((Written.setReg a (by decide) (by decide) v).trans (.loadLength _ .noise v)).trans
    (.setChannel _ .noise rfl fun h => { h.channels .noise with })

theorem written_writeNoiseMode (a : Apu) (v : Byte) : Written a (a.writeNoiseMode v) := by
  refine (Written.setReg a (i := 0x0E) (by decide) (by decide) v).trans ?_
  unfold Apu.writeNoiseMode
  simp only
  split
  · exact ⟨rfl, fun k => by cases k <;> rfl, .inr rfl, fun h => ⟨h.phase, h.channels, h.playing, h.dmcLen, h.dmcDelta⟩⟩
  · exact ⟨rfl, fun _ => rfl, .inl rfl, id⟩

/-- The DMC's interrupt flag is outside the invariants. -/
theorem written_dmcIrqFlag (a : Apu) (flag : Bool) : Written a { a with dmcIrqFlag := flag } :=
  ⟨rfl, fun _ => rfl, .inl rfl, fun h => ⟨h.phase, h.channels, h.playing, h.dmcLen, h.dmcDelta⟩⟩

theorem written_writeDmcControl (a : Apu) (v : Byte) : Written a (a.writeDmcControl v) := by
  have hreg := Written.setReg a (i := 0x10) (by decide) (by decide) v
  unfold Apu.writeDmcControl
  simp only
  split
  · exact hreg
  · exact hreg.trans (written_dmcIrqFlag _ false)

/-- The delta counter is loaded from seven bits (rule R207). -/
theorem written_writeDmcDelta (a : Apu) (v : Byte) : Written a (a.writeDmcDelta v) := by
  have hdelta : (v.extractLsb' 0 7).toNat ≤ 127 := Nat.le_of_lt_succ (v.extractLsb' 0 7).isLt
  exact (Written.setReg a (i := 0x11) (by decide) (by decide) v).trans
    ⟨rfl, fun _ => rfl, .inl rfl, fun h => ⟨h.phase, h.channels, h.playing, h.dmcLen, hdelta⟩⟩

/-- The phase 0 is below the length of either mode's sequence (rule R211). -/
theorem written_writeFrameCounter (a : Apu) (v : Byte) : Written a (a.writeFrameCounter v) := by
  refine ⟨rfl, fun k => by cases k <;> rfl, .inl rfl, fun h => ⟨?_, fun k => ?_, h.playing, h.dmcLen, h.dmcDelta⟩⟩
  · show 0 < if _ then 5 else 4
    split <;> decide
  · have hon : (a.writeFrameCounter v).enabled k = a.enabled k :=
      congrArg (·.getLsbD k.enableBit) (reg_setReg a 0x17 0x15 v)
    have hchannel : (a.writeFrameCounter v).channel k = a.channel k := channel_setReg a 0x17 v k
    rw [hon, hchannel]
    exact h.channels k

/-! ## The write of the enables -/

theorem silenceIfClear_eq (a : Apu) (k : ChannelId) (v : Byte) :
    a.silenceIfClear v k = a.setChannel k { a.channel k with
      lenCounter := if v.getLsbD k.enableBit then (a.channel k).lenCounter else 0 } := by
  unfold Apu.silenceIfClear
  split
  · exact (setChannel_channel a k).symm
  · rfl

/-- The first part of a write of 0x4015: the store, and the silencing of the channels it disables (rule R210). -/
def Apu.storeEnables (v : Byte) (a : Apu) : Apu :=
  ((((a.setReg 0x15 v).silenceIfClear v .pulse1).silenceIfClear v .pulse2).silenceIfClear v .triangle).silenceIfClear v
    .noise

theorem writeEnables_eq (a : Apu) (v : Byte) :
    a.writeEnables v = { (a.storeEnables v).enableDmc v with dmcIrqFlag := false } := rfl

theorem storeEnables_regs (a : Apu) (v : Byte) : (a.storeEnables v).regs = (a.setReg 0x15 v).regs := by
  simp [Apu.storeEnables, silenceIfClear_eq]

@[simp] theorem storeEnables_frames (a : Apu) (v : Byte) : (a.storeEnables v).frames = a.frames := by
  simp [Apu.storeEnables, silenceIfClear_eq, Apu.setReg]
@[simp] theorem storeEnables_dmcActive (a : Apu) (v : Byte) : (a.storeEnables v).dmcActive = a.dmcActive := by
  simp [Apu.storeEnables, silenceIfClear_eq, Apu.setReg]
@[simp] theorem storeEnables_dmcLen (a : Apu) (v : Byte) : (a.storeEnables v).dmcLen = a.dmcLen := by
  simp [Apu.storeEnables, silenceIfClear_eq, Apu.setReg]
@[simp] theorem storeEnables_dmcDelta (a : Apu) (v : Byte) : (a.storeEnables v).dmcDelta = a.dmcDelta := by
  simp [Apu.storeEnables, silenceIfClear_eq, Apu.setReg]
@[simp] theorem storeEnables_lastFrameCounter (a : Apu) (v : Byte) :
    (a.storeEnables v).lastFrameCounter = a.lastFrameCounter := by
  simp [Apu.storeEnables, silenceIfClear_eq, Apu.setReg]
@[simp] theorem storeEnables_noiseLfsr (a : Apu) (v : Byte) : (a.storeEnables v).noiseLfsr = a.noiseLfsr := by
  simp [Apu.storeEnables, silenceIfClear_eq, Apu.setReg]

theorem storeEnables_channel (a : Apu) (v : Byte) (k : ChannelId) :
    (a.storeEnables v).channel k = { a.channel k with
      lenCounter := if k = .dmc ∨ v.getLsbD k.enableBit then (a.channel k).lenCounter else 0 } := by
  cases k <;> simp [Apu.storeEnables, silenceIfClear_eq, channel_setChannel, -channel_setChannel_same,
    -channel_setChannel_other]

/-- Every channel that the store disables is silent after it. -/
theorem storeEnables_fits {a : Apu} (h : a.Fits) (v : Byte) : (a.storeEnables v).Fits := by
  have hreg := reg_of_regs (storeEnables_regs a v)
  refine ⟨?_, fun k => ?_, ?_, ?_, ?_⟩
  · have hphase := h.phase
    unfold Apu.framesOk at hphase ⊢
    have hmode : (a.storeEnables v).reg 0x17 = a.reg 0x17 := (hreg 0x17).trans (reg_setReg a 0x15 0x17 v)
    rw [hmode, storeEnables_frames]
    exact hphase
  · have hon : (a.storeEnables v).enabled k = v.getLsbD k.enableBit := by
      rw [Apu.enabled, hreg, reg_setReg, if_pos rfl]
    have hchannel := h.channels k
    rw [hon, storeEnables_channel]
    refine { hchannel with len := ?_, silent := fun hk hoff => ?_ }
    · split
      · exact hchannel.len
      · exact Nat.zero_le _
    · rw [if_neg (by simp [hk, hoff])]
  · simpa [Apu.dmcOk] using h.playing
  · simpa using h.dmcLen
  · simpa using h.dmcDelta

theorem written_storeEnables (a : Apu) (v : Byte) : Written a (a.storeEnables v) where
  lastFrameCounter := storeEnables_lastFrameCounter a v
  counter k := by rw [storeEnables_channel]
  noiseLfsr := .inl (storeEnables_noiseLfsr a v)
  fits h := storeEnables_fits h v

/-- A DMC that starts has at least one byte to play, and at most 4081 (rule R221). -/
theorem written_dmcRestart (a : Apu) : Written a a.dmcRestart := by
  have hlen := (a.reg 0x13).isLt
  refine ⟨rfl, fun _ => rfl, .inl rfl, fun h => ⟨h.phase, h.channels, fun _ => ?_, ?_, h.dmcDelta⟩⟩ <;>
    simp only [Apu.dmcRestart] <;> omega

theorem written_enableDmc (a : Apu) (v : Byte) : Written a (a.enableDmc v) := by
  unfold Apu.enableDmc
  split
  · exact ⟨rfl, fun _ => rfl, .inl rfl, fun h => ⟨h.phase, h.channels, nofun, Nat.zero_le _, h.dmcDelta⟩⟩
  · split
    · exact ⟨rfl, fun _ => rfl, .inl rfl, id⟩
    · exact written_dmcRestart a

theorem written_writeEnables (a : Apu) (v : Byte) : Written a (a.writeEnables v) :=
  writeEnables_eq a v ▸ ((written_storeEnables a v).trans (written_enableDmc _ v)).trans (written_dmcIrqFlag _ false)

/-! ## Every register -/

/-- A write of any register. The branches are numbered as the rows of `Apu.write`; those without a line of their own are
the store alone, to a register other than 0x4015 and 0x4017. -/
theorem written_write (i : BitVec 5) (v : Byte) (a : Apu) : Written a (a.write i v) := by
  unfold Apu.write
  split
  case h_4 => exact written_writePulseLength a .pulse1 (by decide) (by decide) v
  case h_8 => exact written_writePulseLength a .pulse2 (by decide) (by decide) v
  case h_11 => exact written_writeTriangleLength a v
  case h_13 => exact written_writeNoiseMode a v
  case h_14 => exact written_writeNoiseLength a v
  case h_15 => exact written_writeDmcControl a v
  case h_16 => exact written_writeDmcDelta a v
  case h_19 => exact written_writeEnables a v
  case h_20 => exact written_writeFrameCounter a v
  case h_21 => exact .setReg a (by assumption) (by assumption) v
  all_goals exact .setReg a (by decide) (by decide) v

end Sys2Proof.Machine
end

section
/-! PROOF. What no CPU instruction reaches. -/

namespace Sys2Proof.Machine

/-- One instruction reaches the APU by a register write at most. -/
theorem Changed.apu_written {s t : State} (h : Changed s t) : t.apu = s.apu ∨ Written s.apu t.apu := by
  rcases h.apu with e | ⟨i, v, e⟩
  · exact .inl e
  · exact .inr (e ▸ written_write i v s.apu)

/-- Settles O31: host and blocks by `exec_changed`, stack and AY by `exec_cpuEffect`, the timers because no register
write touches one. -/
theorem cpuReach : Obligations.CpuReach := by
  intro i s t hcpu h
  have hchanged := changed_of_exec h
  have heffect := cpuEffect_of_exec h
  have htimers : t.apu.lastFrameCounter = s.apu.lastFrameCounter ∧
      ∀ k, (t.apu.channel k).counter = (s.apu.channel k).counter := by
    rcases hchanged.apu_written with e | hwritten
    · exact ⟨by rw [e], fun k => by rw [e]⟩
    · exact ⟨hwritten.lastFrameCounter, hwritten.counter⟩
  refine ⟨heffect.ay hcpu, hchanged.host, hchanged.blocks, hchanged.mapperBase, heffect.stopSp, htimers.1, htimers.2,
    fun hsp => ?_⟩
  cases hmoves : movesSp i with
  | true => exact of_movesSp hmoves
  | false => exact absurd (heffect.sp hmoves) hsp

end Sys2Proof.Machine
end

section
/-! SUPPORT. The APU's invariant through a sample, stage by stage: frame steps, timers, outputs, grant. -/

namespace Sys2Proof.Machine

/-! ## The frame sequencer -/

/-- The signals and the divider are outside the invariants. -/
theorem Apu.Fits.setSignals {a : Apu} (h : a.Fits) (quarter half full : Bool) (divider : Nat) :
    Apu.Fits { a with quarter := quarter, half := half, full := full, lastFrameCounter := divider } :=
  ⟨h.phase, h.channels, h.playing, h.dmcLen, h.dmcDelta⟩

/-- A phase below the length of the shorter sequence, or of the mode's own. -/
theorem Apu.Fits.setFrames {a : Apu} (h : a.Fits) {n : Nat} (hn : n < if (a.reg 0x17).getLsbD 7 then 5 else 4) :
    Apu.Fits { a with frames := n } :=
  ⟨hn, h.channels, h.playing, h.dmcLen, h.dmcDelta⟩

theorem Apu.Fits.envelopeClock {a : Apu} (h : a.Fits) (k : ChannelId) : (a.envelopeClock k).Fits := by
  refine h.setChannel ?_
  have hc := h.channels k
  split
  · exact { hc with }
  · split <;> exact { hc with }

theorem Apu.Fits.lengthClock {a : Apu} (h : a.Fits) (k : ChannelId) : (a.lengthClock k).Fits := by
  have hc := h.channels k
  rw [lengthClock_eq]
  refine h.setChannel { hc with len := ?_, silent := fun hk hoff => ?_ } <;> simp only
  · split
    · exact hc.len
    · exact (Nat.sub_le _ _).trans hc.len
  · simp [hc.silent hk hoff]

theorem Apu.Fits.linearClock {a : Apu} (h : a.Fits) : a.linearClock.Fits := by
  have hc := h.channels .triangle
  rw [linearClock_eq]
  refine h.setChannel { hc with linear := fun _ => ?_ }
  simp only
  split
  · omega
  · exact (Nat.sub_le _ _).trans (hc.linear rfl)

theorem Apu.Fits.sweepClock {a : Apu} (h : a.Fits) (k : ChannelId) (i : BitVec 5) : (a.sweepClock k i).Fits := by
  have hc := h.channels k
  refine h.setChannel { hc with sweep := ?_ }
  simp only
  split
  · exact Nat.le_of_lt_succ ((a.reg i).extractLsb' 4 3).isLt
  · exact (Nat.sub_le _ _).trans hc.sweep

theorem Apu.Fits.quarterClocks {a : Apu} (h : a.Fits) : a.quarterClocks.Fits :=
  (((h.envelopeClock .pulse1).envelopeClock .pulse2).envelopeClock .noise).linearClock

theorem Apu.Fits.halfClocks {a : Apu} (h : a.Fits) : a.halfClocks.Fits :=
  (((((h.lengthClock .pulse1).lengthClock .pulse2).lengthClock .triangle).lengthClock .noise).sweepClock .pulse1
    0x01).sweepClock .pulse2 0x05

/-- The clocks a frame step gives when its signals are `q` and `half`, as `Apu.frameStep` gives them. -/
theorem Apu.Fits.clocks {a : Apu} (h : a.Fits) (q half : Bool) :
    Apu.Fits (if half then (if q then a.quarterClocks else a).halfClocks else if q then a.quarterClocks else a) := by
  have hq : Apu.Fits (if q then a.quarterClocks else a) := by
    cases q
    · exact h
    · exact h.quarterClocks
  cases half
  · exact hq
  · exact hq.halfClocks

theorem clocks_reg (a : Apu) (q half : Bool) (i : BitVec 5) :
    Apu.reg (if half then (if q then a.quarterClocks else a).halfClocks else if q then a.quarterClocks else a) i =
      a.reg i :=
  reg_of_regs (by cases q <;> cases half <;> simp) i

/-- A frame step keeps the phase below the length of its mode's sequence (rule R37 (d)). -/
theorem Apu.Fits.frameStep {a : Apu} (h : a.Fits) : a.frameStep.Fits := by
  refine ((h.setSignals _ _ _ a.lastFrameCounter).clocks _ _).setFrames ?_
  rw [clocks_reg]
  have hphase : a.frameStep.frames < if (a.reg 0x17).getLsbD 7 then 5 else 4 := by
    rw [frameStep_frames]
    cases (a.reg 0x17).getLsbD 7 with
    | false =>
      simp only [Bool.false_eq_true, if_false]
      split <;> omega
    | true =>
      simp only [if_true]
      split <;> omega
  exact hphase

theorem Apu.Fits.runFrames {a : Apu} (h : a.Fits) : a.runFrames.Fits :=
  turns_keeps Apu.Fits _ (fun _ h => h.frameStep) _ _ (h.setSignals false false false _)

/-! ## The timers -/

theorem Apu.Fits.reduceCounter {a : Apu} (h : a.Fits) (k : ChannelId) : (a.reduceCounter k).Fits :=
  h.setChannel { h.channels k with }

theorem Apu.Fits.pulseTimer {a : Apu} (h : a.Fits) {k : ChannelId} (hk : k.lastStep = some 7) :
    (a.pulseTimer k).Fits := by
  have hc := h.channels k
  have hseq := hc.sequencer 7 hk
  rw [pulseTimer_eq a k (by omega)]
  refine h.setChannel { hc with sequencer := fun n hn => ?_ }
  obtain rfl : 7 = n := Option.some.inj (hk.symm.trans hn)
  simp only
  omega

theorem Apu.Fits.triangleTimer {a : Apu} (h : a.Fits) : a.triangleTimer.Fits := by
  have hc := h.channels .triangle
  have hseq : a.triangle.sequencer ≤ 31 := hc.sequencer 31 rfl
  rw [triangleTimer_eq a (by omega)]
  refine h.setChannel { hc with sequencer := fun n hn => ?_ }
  obtain rfl : 31 = n := Option.some.inj hn
  simp only
  split <;> omega

/-- The noise register is outside the invariants. -/
theorem Apu.Fits.setNoiseLfsr {a : Apu} (h : a.Fits) (r : BitVec 15) : Apu.Fits { a with noiseLfsr := r } :=
  ⟨h.phase, h.channels, h.playing, h.dmcLen, h.dmcDelta⟩

theorem Apu.Fits.noiseTimer {a : Apu} (h : a.Fits) : a.noiseTimer.Fits := (h.reduceCounter .noise).setNoiseLfsr _

theorem Apu.Fits.dmcRestart {a : Apu} (h : a.Fits) : a.dmcRestart.Fits := (written_dmcRestart a).fits h

/-- The first part of a fetch: the buffer is filled and one byte fewer is left (rule R252). -/
def Apu.dmcFilled (b : Bus) (a : Apu) : Apu :=
  { a with
    dmcBuffer := b.read a.dmcAddr
    dmc := { a.dmc with sequencer := 8 }
    dmcAddr := if a.dmcAddr = 0xFFFF then 0x8000 else a.dmcAddr + 1
    dmcLen := a.dmcLen - 1 }

theorem dmcFetch_eq (b : Bus) (a : Apu) :
    a.dmcFetch b =
      if (a.dmcFilled b).dmcLen ≠ 0 then a.dmcFilled b
      else if (a.reg 0x10).getLsbD 6 then (a.dmcFilled b).dmcRestart
      else { a.dmcFilled b with dmcActive := false, dmcIrqFlag := a.dmcIrqFlag || (a.reg 0x10).getLsbD 7 } := rfl

theorem Apu.Fits.dmcFilled {a : Apu} (h : a.Fits) (b : Bus) {active : Bool}
    (hplaying : active = true → 1 ≤ (a.dmcFilled b).dmcLen) : Apu.Fits { a.dmcFilled b with dmcActive := active } := by
  have hc := h.channels .dmc
  have hseq : ∀ n, ChannelId.dmc.lastStep = some n → 8 ≤ n := fun n hn => (Option.some.inj hn).le
  have hset := h.setChannel (k := .dmc) (c := { a.dmc with sequencer := 8 }) { hc with sequencer := hseq }
  exact ⟨hset.phase, hset.channels, hplaying, (Nat.sub_le _ _).trans h.dmcLen, h.dmcDelta⟩

/-- A fetch leaves bytes to play, restarts the sample, or stops the channel (rule R252). -/
theorem Apu.Fits.dmcFetch {a : Apu} (h : a.Fits) (b : Bus) : (a.dmcFetch b).Fits := by
  have hstopped := h.dmcFilled b (active := false) nofun
  rw [dmcFetch_eq]
  split
  case isTrue hleft => exact h.dmcFilled b (active := a.dmcActive) fun _ => Nat.pos_of_ne_zero hleft
  case isFalse =>
    split
    · exact hstopped.dmcRestart
    · exact (written_dmcIrqFlag _ _).fits hstopped

/-- The delta counter moves within 0 to 127 (rule R253). -/
theorem Apu.Fits.dmcBit {a : Apu} (h : a.Fits) : a.dmcBit.Fits := by
  have hc := h.channels .dmc
  have hdelta := h.dmcDelta
  have hset := h.setChannel (k := .dmc) (c := { a.dmc with sequencer := a.dmc.sequencer - 1 })
    { hc with sequencer := fun n hn => (Nat.sub_le _ _).trans (hc.sequencer n hn) }
  refine ⟨hset.phase, hset.channels, h.playing, h.dmcLen, ?_⟩
  unfold Apu.dmcBit
  simp only
  split <;> omega

theorem Apu.Fits.dmcTick {a : Apu} (h : a.Fits) (b : Bus) : (a.dmcTick b).Fits := by
  have hbit : ∀ {a : Apu}, a.Fits → Apu.Fits (if a.dmc.sequencer = 0 then a else a.dmcBit) := by
    intro a h
    split
    · exact h
    · exact h.dmcBit
  refine hbit ?_
  split
  · exact h.dmcFetch b
  · exact h

theorem Apu.Fits.dmcTimer {a : Apu} (h : a.Fits) (b : Bus) : (a.dmcTimer b).Fits :=
  turns_keeps Apu.Fits _ (fun _ h => h.dmcTick b) _ _ (h.reduceCounter .dmc)

/-! ## The outputs and the grant -/

theorem scaledLevel_le (level : BitVec 16) (percent : Nat) : scaledLevel level percent ≤ 0xFFFF := Nat.min_le_left _ _

theorem Apu.Fits.pulseOutput {a : Apu} (h : a.Fits) (k : ChannelId) (lo : BitVec 5) : (a.pulseOutput k lo).Fits := by
  have hc := h.channels k
  refine h.setChannel ?_
  split
  · exact { hc with output := Nat.zero_le _ }
  · refine { hc with output := ?_ }
    simp only
    split
    · exact scaledLevel_le _ _
    · exact Nat.zero_le _

theorem Apu.Fits.triangleOutput {a : Apu} (h : a.Fits) : a.triangleOutput.Fits := by
  refine h.setChannel (k := .triangle) { h.channels .triangle with output := ?_ }
  simp only
  split
  · exact scaledLevel_le _ _
  · exact Nat.zero_le _

theorem Apu.Fits.noiseOutput {a : Apu} (h : a.Fits) : a.noiseOutput.Fits := by
  have hc := h.channels .noise
  refine h.setChannel (k := .noise) ?_
  split
  · exact { hc with output := Nat.zero_le _ }
  · refine { hc with output := ?_ }
    simp only
    split
    · exact Nat.zero_le _
    · exact scaledLevel_le _ _

theorem mul_div_127_le {top delta : Nat} (htop : top ≤ 0xFFFF) (hdelta : delta ≤ 127) : top * delta / 127 ≤ 0xFFFF := by
  have hprod : top * delta ≤ 0xFFFF * 127 := Nat.mul_le_mul htop hdelta
  omega

/-- The DMC's output is at most its top level, since the delta counter is at most 127 (rule R254). -/
theorem Apu.Fits.dmcOutput {a : Apu} (h : a.Fits) : a.dmcOutput.Fits := by
  refine h.setChannel (k := .dmc) { h.channels .dmc with output := ?_ }
  have htop := scaledLevel_le (Config.dmcLevel 15) a.volumePercent
  simp only
  split
  · exact mul_div_127_le htop h.dmcDelta
  · exact Nat.zero_le _

theorem Apu.Fits.outputs {a : Apu} (h : a.Fits) : a.outputs.Fits :=
  ((((h.pulseOutput .pulse1 0x02).pulseOutput .pulse2 0x06).triangleOutput).noiseOutput).dmcOutput

theorem Apu.Fits.grant {a : Apu} (h : a.Fits) : a.grant.Fits := by
  refine ⟨?_, fun k => ?_, h.playing, h.dmcLen, h.dmcDelta⟩
  · unfold Apu.framesOk
    rw [grant_frames, reg_of_regs (grant_regs a)]
    exact h.phase
  · rw [grant_channel, enabled_of_regs (grant_regs a)]
    exact { h.channels k with }

theorem Apu.Fits.sampleOutputs {a : Apu} (h : a.Fits) (b : Bus) : (a.sampleOutputs b).Fits :=
  ((((h.runFrames.pulseTimer (k := .pulse1) rfl).pulseTimer (k := .pulse2) rfl).triangleTimer.noiseTimer).dmcTimer
    b).outputs

/-- A sample keeps the APU's invariants. -/
theorem Apu.Fits.sample {a : Apu} (h : a.Fits) (b : Bus) : (a.sample b).Fits := (h.sampleOutputs b).grant

end Sys2Proof.Machine
end

section
/-! SUPPORT and PROOF. What one step of the machine can do to bus, APU and AY, said once for every operation of the host
and every instruction; and the invariants that every such move keeps. -/

namespace Sys2Proof.Machine

/-! ## The moves of a step -/

/-- What one step can do to the bus. A bus write and a `call`'s push are gathered as `write`: they keep the blocks and
the stored memory's canonical form. -/
inductive BusMove (b : Bus) : Bus → Prop where
  | write (b' : Bus) (blocks : b'.blocks = b.blocks) (mapperBase : b'.mapperBase = b.mapperBase)
      (mem : Memory.wf b.mem = true → Memory.wf b'.mem = true) : BusMove b b'
  | reset : BusMove b b.doReset
  | power : BusMove b b.doPower
  | setBlock (base : Word) (bytes : List Byte) : BusMove b (b.setBlock base bytes)

/-- What one step can do to the APU, `b` being the bus its samples read. -/
inductive ApuMove (b : Bus) (a : Apu) : Apu → Prop where
  | same : ApuMove b a a
  | write (i : BitVec 5) (v : Byte) : ApuMove b a (a.write i v)
  | reset : ApuMove b a a.doReset
  | setVolume (percent : Nat) : ApuMove b a (a.setVolume percent)
  | sample : ApuMove b a (a.sample b)

/-- What one step can do to the AY. -/
inductive AyMove (a : Ay) : Ay → Prop where
  | same : AyMove a a
  | setReg (i : BitVec 4) (v : Word) : AyMove a (a.setReg i v)
  | writeEnvShape (v : Word) : AyMove a (a.writeEnvShape v)
  | reset : AyMove a a.doReset
  | setType (chipType : Nat) (flags : Byte) : AyMove a (a.setType chipType flags)
  | setFrequency (hz : Nat) : AyMove a (a.setFrequency hz)
  | setSampleFrequency (hz : Nat) : AyMove a (a.setSampleFrequency hz)
  | setVolume (percent : Nat) : AyMove a (a.setVolume percent)
  | sample : AyMove a a.sample

/-- From `s` to `t`, bus, APU and AY each make one move; CPU and host do what they like. -/
structure Moved (s t : State) : Prop where
  bus : BusMove s.bus t.bus
  apu : ApuMove s.bus s.apu t.apu
  ay : AyMove s.ay t.ay

theorem BusMove.refl (b : Bus) : BusMove b b := .write b rfl rfl id

/-- CPU and host may change freely on either side. -/
theorem Moved.of_parts {s t s' t' : State} (h : Moved s t) (hb : s'.bus = s.bus) (ha : s'.apu = s.apu)
    (hy : s'.ay = s.ay) (tb : t'.bus = t.bus) (ta : t'.apu = t.apu) (ty : t'.ay = t.ay) : Moved s' t' :=
  ⟨by rw [hb, tb]; exact h.bus, by rw [hb, ha, ta]; exact h.apu, by rw [hy, ty]; exact h.ay⟩

theorem Moved.of_changed {s t : State} (h : Changed s t) : Moved s t where
  bus := .write _ h.blocks h.mapperBase h.memoryOk
  apu := by
    rcases h.apu with e | ⟨i, v, e⟩ <;> rw [e]
    · exact .same
    · exact .write i v
  ay := by
    rcases h.ay with e | ⟨i, v, e⟩ | ⟨v, e⟩ <;> rw [e]
    · exact .same
    · exact .setReg i v
    · exact .writeEnvShape v

/-- An operation on CPU and host alone. -/
theorem Moved.of_same {s t : State} (hb : t.bus = s.bus) (ha : t.apu = s.apu) (hy : t.ay = s.ay) : Moved s t :=
  ⟨hb ▸ .refl _, ha ▸ .same, hy ▸ .same⟩

theorem Moved.of_bus {s : State} {b : Bus} (h : BusMove s.bus b) : Moved s { s with bus := b } := ⟨h, .same, .same⟩

theorem Moved.of_apu {s : State} {a : Apu} (h : ApuMove s.bus s.apu a) : Moved s { s with apu := a } :=
  ⟨.refl _, h, .same⟩

theorem Moved.of_ay {s : State} {a : Ay} (h : AyMove s.ay a) : Moved s { s with ay := a } := ⟨.refl _, .same, h⟩

theorem Moved.emit {s u : State} (h : Moved s u) (r : HostResult) : Moved s (emit r u) :=
  h.of_parts rfl rfl rfl (emit_bus r u) (emit_apu r u) (emit_ay r u)

theorem Moved.startRun {s u : State} (h : Moved s u) (budget : Option Nat) (purpose : RunPurpose) :
    Moved s (startRun budget purpose u) :=
  h.of_parts rfl rfl rfl (startRun_bus _ _ u) (startRun_apu _ _ u) (startRun_ay _ _ u)

/-! ## Each way to step -/

theorem exec_moved {i : Instr} {s t : State} (h : exec i s = .next t) : Moved s t := .of_changed (changed_of_exec h)

theorem cpuStep_moved {s t : State} (h : cpuStep s = .next t) : Moved s t := by
  rcases cpuStep_cases s with ⟨i, rest, u, -, -, hu, hchanged⟩ | hfault
  · rw [hu, Host.Outcome.next.injEq] at h
    exact h ▸ .of_changed hchanged
  · rw [hfault] at h
    cases h

theorem finishRun_moved (status : Int) (r : Run) (s : State) : Moved s (finishRun status r s) := by
  rw [finishRun_afterRun]
  exact .of_same rfl rfl rfl

theorem runStep_moved {r : Run} {s t : State} (h : runStep r s = .next t) : Moved s t := by
  unfold runStep at h
  split at h
  · cases h
    exact finishRun_moved 0 r s
  · split at h
    · cases h
      exact finishRun_moved 1 r s
    · cases hstep : cpuStep s with
      | next u =>
        rw [hstep] at h
        cases h
        exact (cpuStep_moved hstep).of_parts rfl rfl rfl rfl rfl rfl
      | fault e =>
        rw [hstep] at h
        cases h
        exact finishRun_moved (-1) r s
      | refused e =>
        rw [hstep] at h
        cases h

theorem memWrite_changed (s : State) (addr : Word) (v : Byte) : Changed s (memWrite s addr v) :=
  .of_memWrite (u := s) addr v rfl rfl rfl rfl rfl rfl (memWrite_ay s addr v) (memWrite_host s addr v)

theorem hostCommand_moved {c : Command} {s t : State} (h : hostCommand c s = .next t) : Moved s t := by
  unfold hostCommand at h
  split at h
  · exact exec_moved h
  · cases c with
    | bus addr v =>
      cases h
      exact .of_changed (memWrite_changed s addr v)
    | ay reg v =>
      cases h
      exact .of_same rfl rfl rfl

/-- A result with a host update after it. -/
theorem mapNext_moved {f : State → State} {r : Result} {s t : State} (hf : ∀ u, (f u).bus = u.bus ∧ (f u).apu = u.apu ∧
    (f u).ay = u.ay) (hr : ∀ u, r = .next u → Moved s u) (h : mapNext f r = .next t) : Moved s t := by
  cases r with
  | next u =>
    cases h
    obtain ⟨hb, ha, hy⟩ := hf u
    exact (hr u rfl).of_parts rfl rfl rfl hb ha hy
  | fault e => cases h
  | refused e => cases h

theorem hostBusWrite_moved {addr : Word} {v : Byte} {s t : State} (h : hostBusWrite addr v s = .next t) : Moved s t :=
  mapNext_moved (f := emit _) (fun _ => ⟨rfl, rfl, rfl⟩) (fun _ => hostCommand_moved) h

theorem takeSample_moved {chip : Chip} {s t : State} (h : takeSample chip s = .next t) : Moved s t := by
  cases chip with
  | apu =>
    rw [takeSample, takeApuSample, Host.Outcome.next.injEq] at h
    rw [← h]
    exact .emit (.of_apu .sample) _
  | ay =>
    simp only [takeSample, takeAySample] at h
    split at h
    · cases h
    · rw [Host.Outcome.next.injEq] at h
      rw [← h]
      exact .emit (.of_ay .sample) _

theorem stepVgm_moved {chip : Chip} {base : Word} {bytes : List Byte} {s t : State}
    (h : stepVgm chip base bytes s = .next t) : Moved s t := by
  unfold stepVgm at h
  split at h <;> cases h <;> exact .of_same rfl rfl rfl

theorem enterCall_changed (addr : Word) (s : State) : Changed s (enterCall addr s) :=
  changed_setPc _ (changed_push16 _ (.of_cpu rfl rfl rfl rfl))

theorem performOp_call (addr : Word) (budget : Option Nat) (purpose : RunPurpose) (s : State) :
    performOp (.call addr budget purpose) s = .next (startRun budget purpose (enterCall addr s)) := rfl

/-- The operations of the host, one by one (rule R350). -/
theorem performOp_moved {op : HostOp} {s t : State} (h : performOp op s = .next t) : Moved s t := by
  cases op with
  | reset => cases h; exact ⟨.reset, .reset, .reset⟩
  | power => cases h; exact ⟨.power, .reset, .reset⟩
  | apuReset | apuPower => cases h; exact .of_apu .reset
  | ayReset => cases h; exact .of_ay .reset
  | busReset => cases h; exact .of_bus .reset
  | busPower => cases h; exact .of_bus .power
  | busWrite addr v => exact hostBusWrite_moved h
  | vgmB4 aa dd => exact hostBusWrite_moved h
  | vgmA0 aa dd => exact hostCommand_moved h
  | ayWrite reg v => exact hostCommand_moved h
  | apuWrite addr v =>
    simp only [performOp] at h
    split at h
    · exact hostCommand_moved h
    · cases h
  | call addr budget purpose =>
    rw [performOp_call, Host.Outcome.next.injEq] at h
    rw [← h]
    exact .startRun (.of_changed (enterCall_changed addr s)) budget purpose
  | cpuStep =>
    simp only [performOp] at h
    cases hstep : cpuStep s with
    | next u =>
      rw [hstep] at h
      cases h
      exact (cpuStep_moved hstep).of_parts rfl rfl rfl rfl rfl rfl
    | fault e =>
      rw [hstep] at h
      cases h
      exact .of_same rfl rfl rfl
    | refused e =>
      rw [hstep] at h
      cases h
  | setBlock base bytes => cases h; exact .of_bus (.setBlock base bytes)
  | apuSample => exact takeSample_moved (chip := .apu) h
  | aySample => exact takeSample_moved (chip := .ay) h
  | apuSetVolume percent => cases h; exact .of_apu (.setVolume percent)
  | aySetType chipType flags => cases h; exact .of_ay (.setType chipType flags)
  | aySetFrequency hz => cases h; exact .of_ay (.setFrequency hz)
  | aySetSampleFrequency hz => cases h; exact .of_ay (.setSampleFrequency hz)
  | aySetVolume percent => cases h; exact .of_ay (.setVolume percent)
  | wait chip n =>
    cases n with
    | zero => cases h; exact .of_same rfl rfl rfl
    | succ n => exact mapNext_moved (f := prepend _) (fun _ => ⟨rfl, rfl, rfl⟩) (fun _ => takeSample_moved) h
  | vgm chip base bytes => exact stepVgm_moved h
  | cpuReset | cpuPower | busRead addr | apuRead addr | setA v | setX v | setY v | setSp v | setP v | setPc v
  | resume budget | ayRead reg | nsfBoot hd track | nsfPlay hd | stop =>
    cases h
    exact .of_same rfl rfl rfl

/-- Every step of the machine moves bus, APU and AY by one move each. -/
theorem step_moved {s t : State} (h : step s = .next t) : Moved s t := by
  unfold step machineStep at h
  split at h
  · exact runStep_moved h
  · split at h
    · exact (performOp_moved h).of_parts rfl rfl rfl rfl rfl rfl
    · split at h
      · cases h
        exact .of_same rfl rfl rfl
      · exact cpuStep_moved h

/-! ## What every move keeps -/

theorem memoryOk_of_move {s t : State} (h : BusMove s.bus t.bus) (hs : s.memoryOk) : t.memoryOk := by
  unfold State.memoryOk at hs ⊢
  generalize s.bus = b, t.bus = b' at *
  cases h with
  | write b' blocks mapperBase mem => exact mem hs
  | reset => exact hs
  | power => rfl
  | setBlock base bytes =>
    unfold Bus.setBlock
    split <;> exact hs

/-- The page a block begins in (rule R58): its base with the low twelve bits cleared. -/
theorem pageBase_toNat (base : Word) : (base &&& 0xF000).toNat = base.toNat / 0x1000 * 0x1000 := by
  have hmask : base &&& (0xF000 : Word) = (base >>> (12 : Nat)) <<< (12 : Nat) := by
    have hbits : ∀ i : Fin 16, (0xF000 : Word).getLsbD i = !decide (i.val < 12) := by decide
    apply BitVec.eq_of_getLsbD_eq
    intro i hi
    rw [BitVec.getLsbD_and, hbits ⟨i, hi⟩, BitVec.getLsbD_shiftLeft, BitVec.getLsbD_ushiftRight]
    by_cases h : i < 12
    · simp [h]
    · simp [h, hi, Nat.add_sub_cancel' (Nat.le_of_not_lt h)]
  have := base.isLt
  rw [hmask, BitVec.toNat_shiftLeft, BitVec.toNat_ushiftRight, Nat.shiftRight_eq_div_pow, Nat.shiftLeft_eq]
  omega

/-- The block invariant of a bus: the content of `State.blocksOk`. -/
def Bus.blocksOk (b : Bus) : Prop :=
  b.blocks.length ≤ 4 ∧ (∀ x ∈ b.blocks, b.mapperBase.toNat ≤ x.base.toNat / 0x1000 * 0x1000) ∧
    (b.blocks ≠ [] → ∃ x ∈ b.blocks, b.mapperBase.toNat = x.base.toNat / 0x1000 * 0x1000)

theorem blocksOk_iff (s : State) : s.blocksOk ↔ s.bus.blocksOk := Iff.rfl

/-- The new block's page replaces the mapper's base when it is lower, or is the first (rule R353). -/
theorem setBlock_blocksOk {b : Bus} (h : b.blocksOk) (base : Word) (bytes : List Byte) :
    (b.setBlock base bytes).blocksOk := by
  have hpage := pageBase_toNat base
  obtain ⟨hlength, hleast, hattained⟩ := h
  unfold Bus.setBlock
  split
  case isTrue => exact ⟨hlength, hleast, hattained⟩
  case isFalse hroom =>
    simp only [maxBlocks] at hroom
    refine ⟨by simp; omega, ?_⟩
    simp only [List.mem_append, List.mem_singleton]
    split
    case isTrue hempty =>
      refine ⟨?_, fun _ => ⟨_, .inr rfl, hpage⟩⟩
      rintro x (hx | rfl)
      · rw [hempty] at hx
        exact absurd hx List.not_mem_nil
      · exact hpage.le
    case isFalse hsome =>
      obtain ⟨y, hy, hyBase⟩ := hattained hsome
      split
      case isTrue hlower =>
        refine ⟨?_, fun _ => ⟨_, .inr rfl, hpage⟩⟩
        rintro x (hx | rfl)
        · exact (BitVec.le_def.1 hlower).trans (hleast x hx)
        · exact hpage.le
      case isFalse hhigher =>
        refine ⟨?_, fun _ => ⟨y, .inl hy, hyBase⟩⟩
        rintro x (hx | rfl)
        · exact hleast x hx
        · have := BitVec.le_def.not.1 hhigher
          simp only
          omega

theorem blocksOk_of_move {b b' : Bus} (h : BusMove b b') (hb : b.blocksOk) : b'.blocksOk := by
  cases h with
  | write _ blocks mapperBase mem =>
    unfold Bus.blocksOk
    rw [blocks, mapperBase]
    exact hb
  | reset => exact hb
  | power => exact hb
  | setBlock base bytes => exact setBlock_blocksOk hb base bytes

theorem apuNoise_of_move {b : Bus} {a a' : Apu} (h : ApuMove b a a') (ha : a.noiseLfsr ≠ 0) : a'.noiseLfsr ≠ 0 := by
  cases h with
  | same => exact ha
  | write i v =>
    rcases (written_write i v a).noiseLfsr with e | e <;> rw [e]
    · exact ha
    · decide
  | reset => exact show (1 : BitVec 15) ≠ 0 by decide
  | setVolume percent => exact ha
  | sample =>
    obtain ⟨short, n, e⟩ := sample_noiseLfsr b a
    rw [e]
    exact turns_keeps (· ≠ 0) _ (fun _ => noiseShift_ne_zero short) n _ ha

theorem ayNoise_of_move {a a' : Ay} (h : AyMove a a') (ha : a.noiseLfsr ≠ 0) : a'.noiseLfsr ≠ 0 := by
  cases h with
  | reset => exact show (1 : BitVec 17) ≠ 0 by decide
  | sample =>
    rw [(aySample_noise a).2]
    exact turns_keeps (· ≠ 0) _ (fun _ => ayNoiseShift_ne_zero) _ _ ha
  | _ => exact ha

theorem apuFits_of_move {b : Bus} {a a' : Apu} (h : ApuMove b a a') (ha : a.Fits) : a'.Fits := by
  cases h with
  | same => exact ha
  | write i v => exact (written_write i v a).fits ha
  | reset => exact (Apu.fits_iff_ok _).2 (resetWith_ok a.volumePercent)
  | setVolume percent => exact ⟨ha.phase, ha.channels, ha.playing, ha.dmcLen, ha.dmcDelta⟩
  | sample => exact ha.sample b

/-- Settles O59: each invariant is kept by every move of its part. -/
theorem stepKeepsStored : Obligations.StepKeepsStored := by
  intro s t h
  obtain ⟨hbus, hapu, hay⟩ := step_moved h
  refine ⟨memoryOk_of_move hbus, ?_, ?_⟩
  · rw [blocksOk_iff, blocksOk_iff]
    exact blocksOk_of_move hbus
  · rintro ⟨hapuNoise, hayNoise⟩
    exact ⟨apuNoise_of_move hapu hapuNoise, ayNoise_of_move hay hayNoise⟩

/-- Settles O60: every move of the APU keeps its invariants, a sample stage by stage. -/
theorem stepKeepsApu : Obligations.StepKeepsApu := by
  intro s t h hok
  rw [← Apu.fits_iff_ok] at hok ⊢
  exact apuFits_of_move (step_moved h).apu hok

end Sys2Proof.Machine
end

section
/-! SUPPORT and PROOF. The bus and the step: the rows of the bus map as one case split, what a read gives in each row,
one write as the command it decodes to, the lookup among the data blocks, and the bank registers. -/

namespace Sys2Proof.Machine

/-! ## The step -/

/-- A CPU step is the decoded instruction (rules R97, R340). -/
theorem cpuStep_of_decode {s : State} {i : Instr} {rest : List Byte} (h : decode (fetchBytes s) = .ok (i, rest)) :
    cpuStep s = exec i s := by
  simp only [cpuStep, h]

/-- A turn of a run that is neither out of budget nor at its stop marker is one CPU step and costs one unit (rules R344,
R346). -/
theorem runStep_of_cpuStep {r : Run} {s t : State} (hbudget : r.budget ≠ some 0) (hsp : s.cpu.sp ≠ s.cpu.stopSp)
    (h : cpuStep s = .next t) :
    runStep r s = .next { t with host := { t.host with run := some { r with budget := r.budget.map (· - 1) } } } := by
  simp only [runStep, if_neg hbudget, if_neg hsp, h]

/-- Settles O6: `step_single` and `step_run` down to `cpuStep`; an instruction leaves the host as it was. -/
theorem stepRunsDecoded : Obligations.StepRunsDecoded := by
  intro s i rest hdecode
  have hcpu : cpuStep s = exec i s := cpuStep_of_decode hdecode
  refine ⟨fun hsingle => (step_single hsingle).trans hcpu, fun r t hrun hbudget hsp hexec => ?_⟩
  have hhost : t.host = s.host := (changed_of_exec hexec).host
  rw [step_run hrun, runStep_of_cpuStep hbudget hsp (hcpu.trans hexec), hhost]

/-! ## The rows of the bus map -/

/-- Every address is in one row of rule R71. -/
theorem region_rows (addr : Word) :
    (addr.toNat ≤ 0x1FFF ∧ region addr = .ram (addr.toNat % 0x0800)) ∨
    ((0x2000 ≤ addr.toNat ∧ addr.toNat ≤ 0x3FFF ∨ 0x4020 ≤ addr.toNat ∧ addr.toNat ≤ 0x4FFF) ∧ region addr = .hole) ∨
    ((0x4000 ≤ addr.toNat ∧ addr.toNat ≤ 0x401F) ∧ region addr = .apu (addr.setWidth 5)) ∨
    ((0x5000 ≤ addr.toNat ∧ addr.toNat ≤ 0x5FFF) ∧ region addr = .bank (addr.setWidth 3)) ∨
    ((0x6000 ≤ addr.toNat ∧ addr.toNat ≤ 0x7FFF) ∧ region addr = .bram addr.toNat) ∨
    ((0x8000 ≤ addr.toNat ∧ addr.toNat ≤ 0xFFF9) ∧ region addr = .rom) ∨
    (0xFFFA ≤ addr.toNat ∧ region addr = .vectors) := by
  by_cases h1 : addr.toNat ≤ 0x1FFF
  · exact .inl ⟨h1, region_ram h1⟩
  by_cases h2 : addr.toNat ≤ 0x3FFF
  · exact .inr (.inl ⟨.inl ⟨by omega, h2⟩, region_low_hole (by omega) h2⟩)
  by_cases h3 : addr.toNat ≤ 0x401F
  · exact .inr (.inr (.inl ⟨⟨by omega, h3⟩, region_apu (by omega) h3⟩))
  by_cases h4 : addr.toNat ≤ 0x4FFF
  · exact .inr (.inl ⟨.inr ⟨by omega, h4⟩, region_high_hole (by omega) h4⟩)
  by_cases h5 : addr.toNat ≤ 0x5FFF
  · exact .inr (.inr (.inr (.inl ⟨⟨by omega, h5⟩, region_bank (by omega) h5⟩)))
  by_cases h6 : addr.toNat ≤ 0x7FFF
  · exact .inr (.inr (.inr (.inr (.inl ⟨⟨by omega, h6⟩, region_bram (by omega) h6⟩))))
  by_cases h7 : addr.toNat ≤ 0xFFF9
  · exact .inr (.inr (.inr (.inr (.inr (.inl ⟨⟨by omega, h7⟩, region_rom (by omega) h7⟩)))))
  · exact .inr (.inr (.inr (.inr (.inr (.inr ⟨by omega, region_vectors (by omega)⟩)))))

/-- The mirrors of one RAM byte are one cell of the map (rule R72). -/
theorem region_of_sameRamByte {a b : Word} (h : SameRamByte a b) : region a = region b := by
  obtain ⟨ha, hb, hmod⟩ := h
  rw [region_ram ha, region_ram hb, hmod]

/-! ## One read -/

theorem memRead_ram (s : State) {a : Word} (h : a.toNat ≤ 0x1FFF) :
    memRead s a = Memory.get s.bus.mem (a.toNat % 0x0800) := by
  simp only [memRead, Bus.read, region_ram h]

theorem memRead_bram (s : State) {a : Word} (h : 0x6000 ≤ a.toNat) (h' : a.toNat ≤ 0x7FFF) :
    memRead s a = Memory.get s.bus.mem a.toNat := by
  simp only [memRead, Bus.read, region_bram h h']

theorem memRead_rom (s : State) {a : Word} (h : 0x8000 ≤ a.toNat) (h' : a.toNat ≤ 0xFFF9) :
    memRead s a = romLookup s.bus.blocks (if s.bus.bankingEnabled then s.bus.mapper031 a else a.toNat) := by
  simp only [memRead, Bus.read, region_rom h h']

theorem memRead_vectors (s : State) {a : Word} (h : 0xFFFA ≤ a.toNat) :
    memRead s a = romLookup s.bus.blocks a.toNat := by
  simp only [memRead, Bus.read, region_vectors h]

theorem memRead_apu (s : State) {a : Word} (h : 0x4000 ≤ a.toNat) (h' : a.toNat ≤ 0x401F) : memRead s a = 0 := by
  simp only [memRead, Bus.read, region_apu h h', apuRead]

theorem memRead_hole (s : State) {a : Word} (h : region a = .hole) : memRead s a = 0xFF := by
  simp only [memRead, Bus.read, h]

/-- The host's bus read shows the byte and takes the operation off the queue (rule R355). -/
theorem step_busRead {s : State} {addr : Word} {rest : List HostOp} (h : s.performing (.busRead addr) rest) :
    step s = .next { s with host := { s.host with
      queue := rest
      results := .byte (memRead s addr) :: s.host.results } } := by
  rw [step_op h]
  rfl

/-- Settles O8: one row of the map at a time. -/
theorem busRead : Obligations.BusRead := by
  intro s addr
  refine ⟨?_, fun rest => step_busRead⟩
  rcases region_rows addr with ⟨h, -⟩ | ⟨h, e⟩ | ⟨h, -⟩ | ⟨h, -⟩ | ⟨h, -⟩ | ⟨h, -⟩ | ⟨h, -⟩
  · rw [if_pos h, memRead_ram s h]
  · rw [if_neg (by omega), if_neg (by omega), if_neg (by omega), if_neg (by omega), if_neg (by omega),
      if_neg (by omega), memRead_hole s e]
  · rw [if_neg (by omega), if_pos h, memRead_apu s h.1 h.2]
  · rw [if_neg (by omega), if_neg (by omega), if_pos h, memRead_bank s h.1 h.2]
  · rw [if_neg (by omega), if_neg (by omega), if_neg (by omega), if_pos h, memRead_bram s h.1 h.2]
  · rw [if_neg (by omega), if_neg (by omega), if_neg (by omega), if_neg (by omega), if_pos h, memRead_rom s h.1 h.2]
  · rw [if_neg (by omega), if_neg (by omega), if_neg (by omega), if_neg (by omega), if_neg (by omega), if_pos h,
      memRead_vectors s h]

/-! ## A bus write as a register command -/

/-- The registers from 0x18 on are the unlisted ones by their low three bits. -/
theorem high_index_of_le : ∀ i : BitVec 5, 0x18 ≤ i.toNat → (UnlistedReg.high (i.setWidth 3)).index = i := by
  decide

/-- The command of register `i` is `ApuWrite` on it (rules R134, R190). -/
theorem exec_decodeApu (i : BitVec 5) (v : Byte) (s : State) :
    exec (decodeApu i v) s = .next { s with apu := s.apu.write i v } := by
  unfold decodeApu
  split
  case h_25 =>
    have hhigh : 0x18 ≤ i.toNat := by
      simp only [imp_false] at *
      bv_omega
    have hwrite := writeUnlisted_eq_write (.high (i.setWidth 3)) v s.apu
    rw [high_index_of_le i hhigh] at hwrite
    exact congrArg (fun a => Host.Outcome.next { s with apu := a }) hwrite
  all_goals rfl

/-- The register command that a bus write decodes to does what the bus write does (rules R74, R76). -/
theorem exec_of_decodeCommand_bus {addr : Word} {v : Byte} {i : Instr} (h : decodeCommand (.bus addr v) = some i)
    (s : State) : exec i s = .next (memWrite s addr v) := by
  simp only [decodeCommand] at h
  split at h
  case isTrue hwindow =>
    cases h
    simp only [exec_decodeApu, memWrite, region_apu hwindow.1 hwindow.2]
  case isFalse =>
    split at h
    case isTrue hbank =>
      cases h
      have hlow : (addr.setWidth 12).setWidth 3 = addr.setWidth 3 := BitVec.setWidth_setWidth_of_le addr (by omega)
      simp only [memWrite, region_bank hbank.1 hbank.2, ← hlow]
      rfl
    case isFalse => cases h

/-- The host's bus command is the bus write, whether the address is a register's or not (rules R85, R355). -/
theorem hostCommand_bus (addr : Word) (v : Byte) (s : State) :
    hostCommand (.bus addr v) s = .next (memWrite s addr v) := by
  unfold hostCommand
  split
  case h_1 i h => exact exec_of_decodeCommand_bus h s
  case h_2 => rfl

/-- A bus write depends on bus and APU alone and carries the other parts along. -/
theorem memWrite_of_parts {s u : State} (hb : u.bus = s.bus) (ha : u.apu = s.apu) (addr : Word) (v : Byte) :
    memWrite u addr v = { memWrite s addr v with cpu := u.cpu, ay := u.ay, host := u.host } := by
  obtain ⟨cpu, bus, apu, ay, host⟩ := u
  subst hb ha
  unfold memWrite
  split <;> rfl

/-- A store is the bus write at the effective address, and moves `pc`. -/
theorem storeByte_eq (m : MemMode) (v : Byte) (s : State) :
    storeByte m v s =
      { memWrite s (effAddr m s) v with cpu := { s.cpu with pc := s.cpu.pc + BitVec.ofNat 16 (memLength m) } } := by
  rw [storeByte, memWrite_of_parts (advance_bus _ s) (advance_apu _ s), advance_cpu, advance_ay, advance_host,
    ← memWrite_ay s (effAddr m s) v, ← memWrite_host s (effAddr m s) v]

/-- Settles O32: the store and the command are the same bus write. -/
theorem storeIsCommand : Obligations.StoreIsCommand := by
  intro s m i c hc hdecode
  have hstore : exec c.1 s = .next (storeByte m c.2 s) := by
    simp only [List.mem_cons, List.not_mem_nil, or_false] at hc
    obtain rfl | rfl | rfl := hc <;> rfl
  refine ⟨_, _, hstore, exec_of_decodeCommand_bus hdecode s, ?_, ?_, memWrite_cpu _ _ _, rfl⟩ <;> rw [storeByte_eq]

/-! ## One write -/

/-- The rows whose writes take effect (rules R85, R86). -/
theorem writeAccepted_iff (addr : Word) :
    writeAccepted addr = true ↔ addr.toNat ≤ 0x1FFF ∨ (0x4000 ≤ addr.toNat ∧ addr.toNat ≤ 0x401F) ∨
      (0x5000 ≤ addr.toNat ∧ addr.toNat ≤ 0x7FFF) := by
  unfold writeAccepted
  rcases region_rows addr with ⟨h, e⟩ | ⟨h, e⟩ | ⟨h, e⟩ | ⟨h, e⟩ | ⟨h, e⟩ | ⟨h, e⟩ | ⟨h, e⟩ <;>
    simp only [e, true_iff, Bool.false_eq_true, false_iff] <;> omega

/-- The host's bus write is the write, shows its Boolean and takes the operation off the queue (rule R355). -/
theorem step_busWrite {s : State} {addr : Word} {v : Byte} {rest : List HostOp}
    (h : s.performing (.busWrite addr v) rest) :
    step s = .next { memWrite s addr v with host := { s.host with
      queue := rest
      results := .wrote (writeAccepted addr) :: s.host.results } } := by
  have hwrite : memWrite (s.withQueue rest) addr v = { memWrite s addr v with host := (s.withQueue rest).host } := by
    simp only [memWrite_of_parts (s := s) (u := s.withQueue rest) rfl rfl, memWrite_cpu, memWrite_ay]
    rfl
  rw [step_op h]
  simp only [performOp, hostBusWrite, hostCommand_bus, mapNext, hwrite]
  rfl

/-- Settles O9: the rows by `memWrite_stored`, and RAM's mirrors because they are one cell of the map. -/
theorem busWrite : Obligations.BusWrite := by
  refine ⟨fun s addr v hs => ?_, fun s a b v hab => ?_⟩
  · exact ⟨⟨memWrite_cpu s addr v, memWrite_stored s addr v hs, memWrite_ay s addr v, memWrite_host s addr v⟩,
      writeAccepted_iff addr, fun rest => step_busWrite⟩
  · have hregion := region_of_sameRamByte hab
    obtain ⟨ha, hb, hmod⟩ := hab
    refine ⟨by rw [memRead_ram s ha, memRead_ram s hb, hmod], ?_⟩
    simp only [memWrite, hregion]

/-! ## The lookup among the data blocks -/

/-- Blocks that do not contain the number are passed over. -/
theorem romLookup_append {before : List Block} {n : Nat} (rest : List Block)
    (h : ∀ c ∈ before, ¬ (c.base.toNat ≤ n ∧ n < c.base.toNat + c.bytes.length)) :
    romLookup (before ++ rest) n = romLookup rest n := by
  induction before with
  | nil => rfl
  | cons c before ih =>
    obtain ⟨hc, hbefore⟩ := List.forall_mem_cons.1 h
    rw [List.cons_append, romLookup, if_neg hc, ih hbefore]

/-- Settles O10: by induction on the blocks before the first that contains the number. -/
theorem romLookupFirstBlock : Obligations.RomLookupFirstBlock := by
  refine ⟨fun before after b n hbefore h => ?_, fun blocks n hblocks => ?_⟩
  · rw [romLookup_append (b :: after) hbefore, romLookup, if_pos h, List.getD_eq_getElem _ _ (by omega)]
  · have hpassed := romLookup_append [] hblocks
    rwa [List.append_nil] at hpassed

/-! ## Bank registers -/

/-- A bank register write reaches only what the bank range and the banked window read. -/
theorem memRead_writeBank_other (s : State) (i : BitVec 3) (v : Byte) {a : Word}
    (hbank : ¬ (0x5000 ≤ a.toNat ∧ a.toNat ≤ 0x5FFF)) (hrom : ¬ (0x8000 ≤ a.toNat ∧ a.toNat ≤ 0xFFF9)) :
    memRead { s with bus := s.bus.writeBank i v } a = memRead s a := by
  simp only [memRead, Bus.read]
  rcases region_rows a with ⟨-, e⟩ | ⟨-, e⟩ | ⟨-, e⟩ | ⟨h, -⟩ | ⟨-, e⟩ | ⟨h, -⟩ | ⟨-, e⟩
  · rw [e]; rfl
  · rw [e]
  · rw [e]
  · exact absurd h hbank
  · rw [e]; rfl
  · exact absurd h hrom
  · rw [e]; rfl

/-- In the bank range a read after the write shows the written register at each of its addresses. -/
theorem memRead_writeBank_bank (s : State) (addr : Word) (v : Byte) {a : Word} (h : 0x5000 ≤ a.toNat)
    (h' : a.toNat ≤ 0x5FFF) :
    memRead { s with bus := s.bus.writeBank (addr.setWidth 3) v } a =
      if a.toNat % 8 = addr.toNat % 8 then v else memRead s a := by
  have hreg : a.setWidth 3 = addr.setWidth 3 ↔ a.toNat % 8 = addr.toNat % 8 := by
    rw [BitVec.toNat_eq, BitVec.toNat_setWidth, BitVec.toNat_setWidth]
  rw [memRead_bank _ h h', bankReg_writeBank, memRead_bank s h h']
  simp only [hreg]

/-- A write to the bank range, from any state: `memWrite_stored` without its premise on the memory. -/
theorem writeBank_stored (s : State) (v : Byte) {addr : Word} (h : 0x5000 ≤ addr.toNat) (h' : addr.toNat ≤ 0x5FFF) :
    Stored addr v s { s with bus := s.bus.writeBank (addr.setWidth 3) v } := by
  unfold Stored
  rw [if_neg (by omega), if_neg (by omega), if_pos ⟨h, h'⟩]
  exact ⟨fun j => bankReg_writeBank s.bus _ j v, rfl, rfl, rfl, rfl, rfl, fun _ => memRead_writeBank_bank s addr v,
    fun _ => memRead_writeBank_other s _ v⟩

/-- Within bounds, the updates with and without a bound check agree. -/
theorem vector_set!_eq_set {α : Type} {n : Nat} (xs : Vector α n) {i : Nat} (hi : i < n) (x : α) :
    xs.set! i x = xs.set i x hi := by
  rw [← Vector.toArray_inj, Vector.toArray_set]
  exact dif_pos _

/-- Settles O37: the whole range 0x5000 to 0x5FFF decodes by the low three address bits, which are `off`'s. -/
theorem bankSelectResult : Obligations.BankSelectResult := by
  intro off v s
  have hoff := off.isLt
  have haddr : (BitVec.ofNat 16 (0x5000 + off.toNat)).toNat = 0x5000 + off.toNat :=
    Nat.mod_eq_of_lt (by omega)
  have hreg : (BitVec.ofNat 16 (0x5000 + off.toNat)).setWidth 3 = off.setWidth 3 := by
    apply BitVec.eq_of_toNat_eq
    rw [BitVec.toNat_setWidth, BitVec.toNat_setWidth, haddr]
    omega
  refine ⟨{ s with bus := s.bus.writeBank (off.setWidth 3) v }, rfl, ⟨rfl, ?_, rfl, rfl⟩, ?_⟩
  · rw [← hreg]
    exact writeBank_stored s v (by omega) (by omega)
  · have hindex : (off.setWidth 3).toNat = off.toNat % 8 := BitVec.toNat_setWidth 3 off
    simp only [Bus.writeBank, hindex]
    exact (vector_set!_eq_set s.bus.bank (Nat.mod_lt _ (by omega)) v).symm

/-! ## The banked window -/

/-- Address `off` of the 4 KiB window `w` of the ROM range (rules R78, R91). -/
def windowAddr (w : BitVec 3) (off : BitVec 12) : Word := BitVec.ofNat 16 (0x8000 + w.toNat * 0x1000 + off.toNat)

theorem windowAddr_toNat (w : BitVec 3) (off : BitVec 12) :
    (windowAddr w off).toNat = 0x8000 + w.toNat * 0x1000 + off.toNat := by
  have := w.isLt
  have := off.isLt
  exact Nat.mod_eq_of_lt (by omega)

/-- Rule R91 at an address of a window: the page of the window's own bank register. -/
theorem mapper031_windowAddr (b : Bus) (w : BitVec 3) (off : BitVec 12) :
    b.mapper031 (windowAddr w off) = b.mapperBase.toNat + (b.bankReg w).toNat * 0x1000 + off.toNat := by
  have hw := w.isLt
  have hoff := off.isLt
  have haddr := windowAddr_toNat w off
  have hwindow : ((windowAddr w off) >>> (12 : Nat)).setWidth 3 = w := by
    apply BitVec.eq_of_toNat_eq
    rw [BitVec.toNat_setWidth, BitVec.toNat_ushiftRight, Nat.shiftRight_eq_div_pow, haddr]
    omega
  have hpage : (windowAddr w off).toNat % 0x1000 = off.toNat := by
    rw [haddr]
    omega
  unfold Bus.mapper031
  rw [hpage]
  exact congrArg (fun i => b.mapperBase.toNat + (b.bankReg i).toNat * 0x1000 + off.toNat) hwindow

/-- With banking on, a window below the vectors reads its page of the data. -/
theorem memRead_windowAddr {s : State} (hon : s.bus.bankingEnabled = true) {w : BitVec 3} {off : BitVec 12}
    (h : (windowAddr w off).toNat ≤ 0xFFF9) :
    memRead s (windowAddr w off) =
      romLookup s.bus.blocks (s.bus.mapperBase.toNat + (s.bus.bankReg w).toNat * 0x1000 + off.toNat) := by
  have hlow : 0x8000 ≤ (windowAddr w off).toNat := by
    rw [windowAddr_toNat]
    omega
  rw [memRead_rom s hlow h, if_pos hon, mapper031_windowAddr]

/-- The write to the bank register of window `w`, at its address 0x5FF8 + `w`. -/
theorem memWrite_bankRegister (s : State) (w : BitVec 3) (v : Byte) :
    memWrite s (BitVec.ofNat 16 (0x5FF8 + w.toNat)) v = { s with bus := s.bus.writeBank w v } := by
  have hw := w.isLt
  have haddr : (BitVec.ofNat 16 (0x5FF8 + w.toNat)).toNat = 0x5FF8 + w.toNat := Nat.mod_eq_of_lt (by omega)
  have hreg : (BitVec.ofNat 16 (0x5FF8 + w.toNat)).setWidth 3 = w := by
    apply BitVec.eq_of_toNat_eq
    rw [BitVec.toNat_setWidth, haddr]
    omega
  simp only [memWrite, region_bank (by omega : 0x5000 ≤ (BitVec.ofNat 16 (0x5FF8 + w.toNat)).toNat) (by omega), hreg]

/-- Settles O11: rule R91 before and after the write; of the registers only `w`'s changes, and the vectors' row of the
map reads none. -/
theorem bankWriteRemapsOneWindow : Obligations.BankWriteRemapsOneWindow := by
  intro s w v off
  simp only [memWrite_bankRegister]
  refine ⟨fun h => ?_, fun u hu hon => ?_, fun a ha => memRead_vectors _ ha⟩
  · have hread := memRead_windowAddr (s := { s with bus := s.bus.writeBank w v }) rfl h
    simp only [bankReg_writeBank, if_true] at hread
    exact hread
  · by_cases h : (windowAddr u off).toNat ≤ 0xFFF9
    · have hread := memRead_windowAddr (s := { s with bus := s.bus.writeBank w v }) rfl h
      simp only [bankReg_writeBank, if_neg hu] at hread
      exact hread.trans (memRead_windowAddr hon h).symm
    · have hvectors : 0xFFFA ≤ (windowAddr u off).toNat := by omega
      exact (memRead_vectors _ hvectors).trans (memRead_vectors s hvectors).symm

end Sys2Proof.Machine
end

section
/-! SUPPORT and PROOF. The CPU's bytes: a row of the opcode table said once for decoder and encoder, the two round trips,
and the opcode bytes without a row. -/

namespace Sys2Proof

open Sys2Proof.Machine

/-! ## Two operand bytes and their 16-bit number -/

theorem wordOf_lowByte_highByte (w : Word) : wordOf (lowByte w) (highByte w) = w := by
  apply BitVec.eq_of_toNat_eq
  rw [wordOf_toNat, lowByte_toNat, highByte_toNat, Nat.mod_add_div]

theorem lowByte_wordOf (lo hi : Byte) : lowByte (wordOf lo hi) = lo := by
  apply BitVec.eq_of_toNat_eq
  rw [lowByte_toNat, wordOf_toNat, Nat.add_mul_mod_self_left, Nat.mod_eq_of_lt lo.isLt]

theorem highByte_wordOf (lo hi : Byte) : highByte (wordOf lo hi) = hi := by
  have hlo := lo.isLt
  apply BitVec.eq_of_toNat_eq
  rw [highByte_toNat, wordOf_toNat]
  omega

/-! ## Rows of the opcode table -/

/-- A row of this form makes this instruction of these operand bytes (rules R110, R112). -/
inductive Form.Reads : Form → List Byte → Instr → Prop where
  | f1 (i : Instr) : Reads (.f1 i) [] i
  | f2 (make : Byte → Instr) (d : Byte) : Reads (.f2 make) [d] (make d)
  | f3 (make : Word → Instr) (w : Word) : Reads (.f3 make) [lowByte w, highByte w] (make w)

/-- The opcode matrix (rule R115) has a row at `op`, and it makes the instruction of the operand bytes. -/
def TableRow (op : Byte) (operands : List Byte) (i : Instr) : Prop :=
  ∃ f, opcodeTable op = some f ∧ f.Reads operands i

theorem Form.Reads.of_two_bytes (make : Word → Instr) (lo hi : Byte) :
    (Form.f3 make).Reads [lo, hi] (make (wordOf lo hi)) := by
  have h := Form.Reads.f3 make (wordOf lo hi)
  rwa [lowByte_wordOf, highByte_wordOf] at h

/-- No form reads more than two operand bytes (rule R110). -/
theorem Form.reads_of_two_bytes (f : Form) (b c : Byte) (rest : List Byte) :
    ∃ i operands rest', f.Reads operands i ∧ b :: c :: rest = operands ++ rest' := by
  cases f with
  | f1 i => exact ⟨i, [], _, .f1 i, rfl⟩
  | f2 make => exact ⟨_, [b], _, .f2 make b, rfl⟩
  | f3 make => exact ⟨_, [b, c], _, .of_two_bytes make b c, rfl⟩

/-! ## The decoder and the encoder go by the rows -/

theorem decode_of_row {op : Byte} {operands : List Byte} {i : Instr} (h : TableRow op operands i) (rest : List Byte) :
    decode (op :: operands ++ rest) = .ok (i, rest) := by
  obtain ⟨f, hop, hreads⟩ := h
  cases hreads with
  | f1 => simp [decode, hop]
  | f2 => simp [decode, hop]
  | f3 => simp [decode, hop, wordOf_lowByte_highByte]

theorem row_of_decode {bytes : List Byte} {i : Instr} {rest : List Byte} (h : decode bytes = .ok (i, rest)) :
    ∃ op operands, TableRow op operands i ∧ bytes = op :: operands ++ rest := by
  unfold decode at h
  split at h
  case h_1 => cases h
  case h_2 op _ =>
    split at h
    case h_2 hop => cases h; exact ⟨op, [], ⟨_, hop, .f1 i⟩, rfl⟩
    case h_3 d _ hop => cases h; exact ⟨op, [d], ⟨_, hop, .f2 _ d⟩, rfl⟩
    case h_5 lo hi _ hop => cases h; exact ⟨op, [lo, hi], ⟨_, hop, .of_two_bytes _ lo hi⟩, rfl⟩
    all_goals cases h

/-- Row by row of the matrix: rule R118's table has the same row. -/
theorem encode_of_row {op : Byte} {operands : List Byte} {i : Instr} (h : TableRow op operands i) :
    i.wf = true ∧ i.isCpu = true ∧ encode i = op :: operands := by
  obtain ⟨f, hop, hreads⟩ := h
  unfold opcodeTable at hop
  split at hop <;> cases hop <;> cases hreads <;> exact ⟨rfl, rfl, rfl⟩

/-- Mnemonic by mnemonic of rule R118, in the modes that well-formedness admits: the matrix has the same row. -/
theorem row_of_encode {i : Instr} (hwf : i.wf = true) (hcpu : i.isCpu = true) :
    ∃ op operands, encode i = op :: operands ∧ TableRow op operands i := by
  cases i with
  | ora m | and m | eor m | adc m | sbc m | cmp m | cpx m | cpy m | lda m | ldx m | ldy m =>
    cases m with
    | imm d => exact ⟨_, _, rfl, _, rfl, .f2 _ d⟩
    | mem m => cases m <;> cases hwf <;> exact ⟨_, _, rfl, _, rfl, by constructor⟩
  | asl t | lsr t | rol t | ror t =>
    cases t with
    | acc => exact ⟨_, _, rfl, _, rfl, .f1 _⟩
    | mem m => cases m <;> cases hwf <;> exact ⟨_, _, rfl, _, rfl, by constructor⟩
  | bit m | sta m | stx m | sty m | inc m | dec m =>
    cases m <;> cases hwf <;> exact ⟨_, _, rfl, _, rfl, by constructor⟩
  | bpl d | bmi d | bcc d | bcs d | bne d | beq d => exact ⟨_, _, rfl, _, rfl, .f2 _ d⟩
  | jsr w => exact ⟨_, _, rfl, _, rfl, .f3 _ w⟩
  | jmp j => cases j <;> exact ⟨_, _, rfl, _, rfl, .f3 _ _⟩
  | _ => cases hcpu <;> exact ⟨_, _, rfl, _, rfl, .f1 _⟩

/-- Settles O1: the encoding is a row of the matrix, and the decoder reads the row. -/
theorem decodeEncode : Obligations.DecodeEncode := by
  intro i rest hwf hcpu
  obtain ⟨op, operands, hencode, hrow⟩ := row_of_encode hwf hcpu
  rw [hencode]
  exact decode_of_row hrow rest

/-- Settles O2: the decoder has read a row of the matrix, and the row is the encoding. -/
theorem encodeDecode : Obligations.EncodeDecode := by
  intro bytes i rest h
  obtain ⟨op, operands, hrow, hbytes⟩ := row_of_decode h
  obtain ⟨hwf, hcpu, hencode⟩ := encode_of_row hrow
  exact ⟨hwf, hcpu, by rw [hbytes, hencode]⟩

/-! ## The undefined opcodes -/

/-- The opcode bytes with high digit `hi` that have no row in the matrix are the listed ones with that digit, in the same
order (rules R115, R119). -/
theorem undefined_of_highDigit : ∀ hi : BitVec 4,
    ((List.range 16).map fun lo => hi ++ BitVec.ofNat 4 lo).filter (fun op => (opcodeTable op).isNone) =
      undefinedOpcodes.filter fun op => op.extractLsb' 4 4 == hi := by
  decide

theorem mem_bytes_of_highDigit (op : Byte) :
    op ∈ (List.range 16).map fun lo => op.extractLsb' 4 4 ++ BitVec.ofNat 4 lo := by
  have hdigits : ∀ op : Byte, op.extractLsb' 4 4 ++ BitVec.ofNat 4 (op.toNat % 16) = op := by decide
  exact List.mem_map.2 ⟨op.toNat % 16, List.mem_range.2 (Nat.mod_lt _ (by decide)), hdigits op⟩

theorem opcodeTable_eq_none_iff (op : Byte) : opcodeTable op = none ↔ op ∈ undefinedOpcodes := by
  have hdigit : (op ∈ _) = (op ∈ _) := congrArg (op ∈ ·) (undefined_of_highDigit (op.extractLsb' 4 4))
  simpa [List.mem_filter, mem_bytes_of_highDigit] using hdigit

theorem decode_of_undefined {op : Byte} (h : op ∈ undefinedOpcodes) (rest : List Byte) :
    decode (op :: rest) = .error (.undefinedOpcode op) := by
  simp only [decode, (opcodeTable_eq_none_iff op).2 h]

/-- Two bytes after a defined opcode byte are always enough (rule R111). -/
theorem decode_of_defined {op : Byte} (h : op ∉ undefinedOpcodes) (b c : Byte) (rest : List Byte) :
    ∃ i rest', decode (op :: b :: c :: rest) = .ok (i, rest') := by
  obtain ⟨f, hop⟩ := Option.ne_none_iff_exists'.1 (mt (opcodeTable_eq_none_iff op).1 h)
  obtain ⟨i, operands, rest', hreads, hbytes⟩ := f.reads_of_two_bytes b c rest
  refine ⟨i, rest', ?_⟩
  rw [hbytes]
  exact decode_of_row ⟨f, hop, hreads⟩ rest'

theorem cpuStep_of_undefined {s : State} (h : memRead s s.cpu.pc ∈ undefinedOpcodes) :
    cpuStep s = .fault (.cpuError s.cpu.pc) := by
  simp only [cpuStep, fetchBytes, decode_of_undefined h]

/-- Settles O5: the bytes without a row are the listed ones, and the decoder goes by the rows. -/
theorem undefinedOpcodes_decode_and_fault : Obligations.UndefinedOpcodes :=
  ⟨rfl, fun _ _ _ _ h => decode_of_undefined h _, fun _ b c rest h => decode_of_defined h b c rest,
    fun _ hsingle h => (step_single hsingle).trans (cpuStep_of_undefined h)⟩

end Sys2Proof
end

section
/-! SUPPORT and PROOF. Register commands: an address of a register range as base and register number, and the round trip
between commands and the instructions that are no CPU instructions. -/

namespace Sys2Proof

/-! ## Addresses of a register range -/

theorem or_setWidth_toNat {n : Nat} {base : Word} (hn : n ≤ 12) (hbase : base.toNat % 0x1000 = 0) (k : BitVec n) :
    (base ||| k.setWidth 16).toNat = base.toNat + k.toNat := by
  have hk : k.toNat < 2 ^ 12 := Nat.lt_of_lt_of_le k.isLt (Nat.pow_le_pow_right (by decide) hn)
  have hpage : base.toNat = 2 ^ 12 * (base.toNat / 2 ^ 12) := by omega
  rw [BitVec.toNat_or, BitVec.toNat_setWidth, Nat.mod_eq_of_lt (by omega), hpage, ← Nat.two_pow_add_eq_or_of_lt hk]

theorem setWidth_toNat_of_range {n : Nat} {base addr : Word} (hn : n ≤ 12) (hbase : base.toNat % 0x1000 = 0)
    (h : base.toNat ≤ addr.toNat) (h' : addr.toNat < base.toNat + 2 ^ n) :
    (addr.setWidth n).toNat = addr.toNat - base.toNat := by
  obtain ⟨q, hq⟩ : 2 ^ n ∣ base.toNat := (pow_dvd_pow 2 hn).trans (Nat.dvd_of_mod_eq_zero hbase)
  obtain ⟨k, hk⟩ := Nat.exists_eq_add_of_le h
  rw [BitVec.toNat_setWidth, hk, hq, Nat.mul_add_mod, Nat.mod_eq_of_lt (by omega), Nat.add_sub_cancel_left]

theorem or_setWidth_of_range {n : Nat} {base addr : Word} (hn : n ≤ 12) (hbase : base.toNat % 0x1000 = 0)
    (h : base.toNat ≤ addr.toNat) (h' : addr.toNat < base.toNat + 2 ^ n) :
    base ||| (addr.setWidth n).setWidth 16 = addr := by
  apply BitVec.eq_of_toNat_eq
  rw [or_setWidth_toNat hn hbase, setWidth_toNat_of_range hn hbase h h', Nat.add_sub_cancel' h]

theorem setWidth_or_setWidth {n : Nat} {base : Word} (hn : n ≤ 12) (hbase : base.toNat % 0x1000 = 0) (k : BitVec n) :
    (base ||| k.setWidth 16).setWidth n = k := by
  have hk := k.isLt
  have haddr := or_setWidth_toNat hn hbase k
  apply BitVec.eq_of_toNat_eq
  rw [setWidth_toNat_of_range hn hbase (by omega) (by omega), haddr, Nat.add_sub_cancel_left]

/-! ## The commands of the APU window and of the bank range -/

theorem decodeApu_of_high {i : BitVec 5} (h : 0x18 ≤ i.toNat) (v : Byte) :
    decodeApu i v = .apuUnlisted (.high (i.setWidth 3)) v := by
  unfold decodeApu
  split
  case h_25 => rfl
  all_goals exact absurd h (by decide)

theorem decodeApu_unlisted (r : UnlistedReg) (v : Byte) : decodeApu r.index v = .apuUnlisted r v := by
  have hhigh : ∀ k : BitVec 3, 0x18 ≤ (UnlistedReg.high k).index.toNat ∧
      (UnlistedReg.high k).index.setWidth 3 = k := by decide
  cases r with
  | high k => rw [decodeApu_of_high (hhigh k).1, (hhigh k).2]
  | r09 | r0D | r14 | r16 => rfl

theorem encodeCommand_decodeApu (i : BitVec 5) (v : Byte) :
    (decodeApu i v).isCpu = false ∧ encodeCommand (decodeApu i v) = some (.bus (0x4000 ||| i.setWidth 16) v) := by
  by_cases hhigh : 0x18 ≤ i.toNat
  · rw [decodeApu_of_high hhigh]
    exact ⟨rfl, by rw [encodeCommand, Machine.high_index_of_le i hhigh]⟩
  · unfold decodeApu
    split
    case h_25 => simp only [imp_false] at *; bv_omega
    all_goals exact ⟨rfl, rfl⟩

theorem decodeCommand_window (i : BitVec 5) (v : Byte) :
    decodeCommand (.bus (0x4000 ||| i.setWidth 16) v) = some (decodeApu i v) := by
  have hi := i.isLt
  have haddr : (0x4000 ||| i.setWidth 16 : Word).toNat = 0x4000 + i.toNat := or_setWidth_toNat (by decide) rfl i
  dsimp only [decodeCommand]
  rw [if_pos (by omega), setWidth_or_setWidth (by decide) rfl]

theorem decodeCommand_bank (off : BitVec 12) (v : Byte) :
    decodeCommand (.bus (0x5000 ||| off.setWidth 16) v) = some (.bankSelect off v) := by
  have hoff := off.isLt
  have haddr : (0x5000 ||| off.setWidth 16 : Word).toNat = 0x5000 + off.toNat := or_setWidth_toNat (by decide) rfl off
  dsimp only [decodeCommand]
  rw [if_neg (by omega), if_pos (by omega), setWidth_or_setWidth (by decide) rfl]

/-! ## The round trip -/

theorem encodeCommand_of_decodeAy {reg : Nat} {v : Word} {i : Instr} (h : decodeAy reg v = some i) :
    i.isCpu = false ∧ encodeCommand i = some (.ay reg v) := by
  unfold decodeAy at h
  split at h <;> cases h <;> exact ⟨rfl, rfl⟩

theorem encodeCommand_of_decodeCommand {c : Command} {i : Instr} (h : decodeCommand c = some i) :
    i.isCpu = false ∧ encodeCommand i = some c := by
  cases c with
  | ay reg v => exact encodeCommand_of_decodeAy h
  | bus addr v =>
    dsimp only [decodeCommand] at h
    split at h
    case isTrue hwindow =>
      cases h
      have haddr : 0x4000 ||| (addr.setWidth 5).setWidth 16 = addr :=
        or_setWidth_of_range (by decide) rfl hwindow.1 (Nat.lt_succ_of_le hwindow.2)
      simpa only [haddr] using encodeCommand_decodeApu (addr.setWidth 5) v
    case isFalse =>
      split at h
      case isTrue hbank =>
        cases h
        have haddr : 0x5000 ||| (addr.setWidth 12).setWidth 16 = addr :=
          or_setWidth_of_range (by decide) rfl hbank.1 (Nat.lt_succ_of_le hbank.2)
        exact ⟨rfl, by rw [encodeCommand, haddr]⟩
      case isFalse => cases h

theorem decodeCommand_of_not_isCpu {i : Instr} (h : i.isCpu = false) :
    ∃ c, encodeCommand i = some c ∧ decodeCommand c = some i := by
  cases i <;> cases h
  case apuUnlisted r v => exact ⟨_, rfl, by rw [decodeCommand_window, decodeApu_unlisted]⟩
  case bankSelect off v => exact ⟨_, rfl, decodeCommand_bank off v⟩
  case ayToneLow c v | ayToneHigh c v | ayAmplitude c v => cases c <;> exact ⟨_, rfl, rfl⟩
  case ayPort p v => cases p <;> exact ⟨_, rfl, rfl⟩
  all_goals exact ⟨_, rfl, rfl⟩

/-- Settles O3: by the range of the command one way, by the constructor of the instruction the other. -/
theorem commandRoundTrip : Obligations.CommandRoundTrip :=
  ⟨fun _ _ => encodeCommand_of_decodeCommand, fun _ => decodeCommand_of_not_isCpu⟩

/-- Settles O4: each word evaluates. -/
theorem decodeWords : Obligations.DecodeWords :=
  ⟨rfl, rfl, rfl, rfl, rfl, rfl, rfl, rfl, rfl, rfl, rfl⟩

end Sys2Proof
end

section
/-! SUPPORT and PROOF. The operand forms as arithmetic: zero-page sums and pointers modulo 0x100, indexed sums modulo
0x10000. -/

namespace Sys2Proof.Machine

theorem zeroPage_toNat (d : Byte) : (zeroPage d).toNat = d.toNat :=
  BitVec.toNat_setWidth_of_le (by decide)

/-- The zero-page address of a sum that wraps in page zero (rules R124, R125, R131, R132). -/
theorem ofNat_mod_eq_zeroPage {n : Nat} {d : Byte} (h : d.toNat = n % 0x100) :
    BitVec.ofNat 16 (n % 0x100) = zeroPage d := by
  apply BitVec.eq_of_toNat_eq
  rw [BitVec.toNat_ofNat, zeroPage_toNat]
  omega

/-- Both bytes of a pointer lie in page zero (rules R131, R132). -/
theorem zeroPagePointer_toNat (s : State) {n : Nat} {d : Byte} (h : d.toNat = n % 0x100) :
    (zeroPagePointer s d).toNat =
      (memRead s (BitVec.ofNat 16 (n % 0x100))).toNat + 0x100 * (memRead s (BitVec.ofNat 16 ((n + 1) % 0x100))).toNat := by
  have hnext : (d + 1).toNat = (n + 1) % 0x100 := by
    rw [BitVec.toNat_add, h]
    exact Nat.mod_add_mod n 0x100 1
  rw [zeroPagePointer, wordOf_toNat, ofNat_mod_eq_zeroPage h, ofNat_mod_eq_zeroPage hnext]

/-- A 16-bit address indexed by a byte (rules R128, R129, R132). -/
theorem add_setWidth_toNat (w : Word) (d : Byte) : (w + d.setWidth 16).toNat = (w.toNat + d.toNat) % 0x10000 := by
  rw [BitVec.toNat_add, BitVec.toNat_setWidth_of_le (by decide)]

/-- Settles O13: the wraps are the sums' own moduli; operand values and lengths are the definitions' cases. -/
theorem operandForms : Obligations.OperandForms := by
  intro s d w m
  have hd : d.toNat = d.toNat % 0x100 := (Nat.mod_eq_of_lt d.isLt).symm
  refine ⟨rfl, rfl, rfl, rfl, zeroPage_toNat d, ?zpx, ?zpy, rfl, add_setWidth_toNat w s.cpu.x,
    add_setWidth_toNat w s.cpu.y, ?indx, ?indy, rfl, rfl, rfl, rfl, rfl, rfl, rfl, rfl, rfl, rfl, rfl, rfl⟩
  case zpx => exact (zeroPage_toNat _).trans (BitVec.toNat_add d s.cpu.x)
  case zpy => exact (zeroPage_toNat _).trans (BitVec.toNat_add d s.cpu.y)
  case indx => exact zeroPagePointer_toNat s (BitVec.toNat_add d s.cpu.x)
  case indy => rw [effAddr, add_setWidth_toNat, zeroPagePointer_toNat s hd]

end Sys2Proof.Machine
end

section
/-! SUPPORT and PROOF. The AY: its registers as `AyRead` gives them, its periods as arithmetic, one sample as one record
update, the envelope's course after a start, and what a channel puts out. -/

namespace Sys2Proof.Machine

/-! ## Registers -/

/-- The register file as the generators read it and as `AyRead` does (rule R160). -/
theorem ayReg_eq_read (a : Ay) (i : BitVec 4) : a.reg i = a.read i.toNat := by
  have hi : i.toNat < a.regs.toList.length := by simpa using i.isLt
  rw [Ay.reg, Ay.read, List.getD_eq_getElem _ _ hi, Vector.getElem_toList]

/-- A bit of a word as a digit of its value. -/
theorem getLsbD_eq_digit (v : Word) (k : Nat) : v.getLsbD k = decide (v.toNat / 2 ^ k % 2 = 1) :=
  Nat.testBit_eq_decide_div_mod_eq

/-- An update of the AY alone. -/
theorem onlyAy_with (s : State) (a : Ay) : OnlyAy s { s with ay := a } a :=
  ⟨rfl, rfl, rfl, rfl, rfl, fun _ => rfl⟩

theorem ayRead_set_same (a : Ay) (i : Fin 16) (v : Word) :
    ({ a with regs := a.regs.set i v } : Ay).read i = v := by
  have hi : i.val < (a.regs.set i v).toList.length := by simp
  rw [Ay.read, List.getD_eq_getElem _ _ hi, Vector.getElem_toList, Vector.getElem_set_self]

/-- What it means for a command to be a plain register write. -/
theorem stored_of_exec {i : Instr} {k : Fin 16} {v : Word} {s : State}
    (h : exec i s = .next { s with ay := { s.ay with regs := s.ay.regs.set k v } }) :
    ∃ t, exec i s = .next t ∧ OnlyAy s t { s.ay with regs := s.ay.regs.set k v } ∧ t.ay.read k = v :=
  ⟨_, h, onlyAy_with s _, ayRead_set_same s.ay k v⟩

/-- Settles O38: each command is one update of the register file, register 13's with the envelope's restart. -/
theorem ayWrites : Obligations.AyWrites := by
  intro v s
  have stores {i : Instr} (k : Fin 16) := stored_of_exec (i := i) (k := k) (v := v) (s := s)
  refine ⟨?_, _, rfl, ayRead_set_same s.ay 13 v, onlyAy_with s _⟩
  simp only [List.forall_mem_cons, List.not_mem_nil, false_implies, implies_true, and_true]
  exact ⟨stores 0 rfl, stores 1 rfl, stores 2 rfl, stores 3 rfl, stores 4 rfl, stores 5 rfl, stores 6 rfl, stores 7 rfl,
    stores 8 rfl, stores 9 rfl, stores 10 rfl, stores 11 rfl, stores 12 rfl, stores 14 rfl, stores 15 rfl⟩

/-! ## Periods -/

/-- The registers of a channel, by number. -/
theorem ayReg_channel (a : Ay) (c : AyChannel) :
    a.reg (BitVec.ofNat 4 (2 * c.index + 1)) = a.read (2 * c.index + 1) ∧
      a.reg (BitVec.ofNat 4 (2 * c.index)) = a.read (2 * c.index) ∧
      a.reg (BitVec.ofNat 4 (8 + c.index)) = a.read (8 + c.index) := by
  cases c <;> exact ⟨ayReg_eq_read a _, ayReg_eq_read a _, ayReg_eq_read a _⟩

theorem is8930_iff (a : Ay) : a.is8930 = true ↔ Config.isAY8930 a.chipType = true := Iff.rfl

/-- `TP[c]` as arithmetic: the mask takes the value modulo its width (rule R171). -/
theorem tonePeriodValue_eq (a : Ay) (c : AyChannel) :
    a.tonePeriodValue c =
      ((a.read (2 * c.index + 1)).toNat * 0x100 + (a.read (2 * c.index)).toNat % 0x100) %
        (if Config.isAY8930 a.chipType then 0x10000 else 0x1000) := by
  obtain ⟨hhigh, hlow, -⟩ := ayReg_channel a c
  simp only [Ay.tonePeriodValue, hhigh, hlow, BitVec.toNat_and, append_toNat, BitVec.toNat_setWidth]
  by_cases h : a.is8930 = true
  · rw [if_pos h, if_pos ((is8930_iff a).mp h)]
    exact Nat.and_two_pow_sub_one_eq_mod _ 16
  · rw [if_neg h, if_neg (mt (is8930_iff a).mpr h)]
    exact Nat.and_two_pow_sub_one_eq_mod _ 12

/-- The five bits of the noise period (rule R171). -/
theorem noisePeriodValue_eq (a : Ay) : ((a.reg 6).extractLsb' 0 5).toNat = (a.read 6).toNat % 32 := by
  rw [extractLsb'_toNat_mod, ayReg_eq_read]
  simp

/-- The two low bytes of the envelope period (rule R171). -/
theorem envPeriodValue_eq (a : Ay) :
    ((a.reg 12).setWidth 8 ++ (a.reg 11).setWidth 8 : BitVec 16).toNat =
      (a.read 12).toNat % 0x100 * 0x100 + (a.read 11).toNat % 0x100 := by
  rw [append_toNat, ayReg_eq_read, ayReg_eq_read]
  simp

/-- Settles O50: each period is the scaled value of its registers. -/
theorem ayPeriods : Obligations.AyPeriods := fun a c =>
  ⟨congrArg a.scalePeriod (tonePeriodValue_eq a c), congrArg a.scalePeriod (noisePeriodValue_eq a),
    congrArg a.scalePeriod (envPeriodValue_eq a)⟩

/-! ## One sample -/

/-- A phase flipped `n` times is another one if `n` is odd. -/
theorem turns_not (n : Nat) (b : Bool) : turns (fun b => !b) n b = (b ^^ decide (n % 2 = 1)) := by
  induction n with
  | zero => simp [turns]
  | succ n ih =>
    rw [turns_succ_outer, ih]
    rcases Nat.mod_two_eq_zero_or_one n with h | h <;> simp [h, Nat.add_mod]

/-- A tone after its turns: one flip per period of accumulated time, and the remainder (rule R172). -/
def Ay.turnedTone (a : Ay) (c : AyChannel) : AyTone :=
  { counter := (a.tone c).counter % a.tonePeriod c
    phase := (a.tone c).phase ^^ decide ((a.tone c).counter / a.tonePeriod c % 2 = 1) }

theorem toneStep_eq (a : Ay) (c : AyChannel) : a.toneStep c = a.setTone c (a.turnedTone c) := by
  rw [Ay.toneStep, turns_not, Ay.turnedTone]

/-- A tone turns by its own counter, whatever the other tones hold. -/
theorem turnedTone_setTone_other (a : Ay) {c d : AyChannel} (t : AyTone) (h : d ≠ c) :
    (a.setTone c t).turnedTone d = a.turnedTone d := by
  have hperiod : (a.setTone c t).tonePeriod d = a.tonePeriod d := by cases c <;> rfl
  rw [Ay.turnedTone, tone_setTone_other a t h, hperiod, Ay.turnedTone]

/-- The AY after its tones and its noise have turned and the envelope's counter has been taken modulo its period: what
the envelope's turns begin with. -/
def Ay.turnedGenerators (a : Ay) : Ay :=
  { a with
    toneA := a.turnedTone .A, toneB := a.turnedTone .B, toneC := a.turnedTone .C
    noiseCounter := a.noiseCounter % a.noisePeriod
    noiseLfsr := turns ayNoiseShift (a.noiseCounter / a.noisePeriod) a.noiseLfsr
    envCounter := a.envCounter % a.envPeriod }

/-- The generators as one record update and the envelope's turns: no stage changes what a later one reads. -/
theorem generators_eq (a : Ay) :
    a.generators = turns Ay.envTick (a.envCounter / a.envPeriod) a.turnedGenerators := by
  have hB (t : AyTone) : (a.setTone .A t).turnedTone .B = a.turnedTone .B :=
    turnedTone_setTone_other a t (by decide)
  have hC (t u : AyTone) : ((a.setTone .A t).setTone .B u).turnedTone .C = a.turnedTone .C :=
    (turnedTone_setTone_other _ u (by decide)).trans (turnedTone_setTone_other a t (by decide))
  rw [Ay.generators, toneStep_eq, toneStep_eq, toneStep_eq, hB, hC]
  rfl

/-- The envelope's turns leave the tones alone. -/
theorem generators_tone (a : Ay) (c : AyChannel) : a.generators.tone c = a.turnedTone c := by
  rw [generators_eq, turns_view (fun a => a.tone c) Ay.envTick fun a => by rw [envTick_view]; cases c <;> rfl]
  cases c <;> rfl

/-- A field that no generator writes is the same after the generators. -/
theorem generators_view {β : Type} (g : Ay → β) (hturned : ∀ a : Ay, g a.turnedGenerators = g a)
    (htick : ∀ a : Ay, g a.envTick = g a) (a : Ay) : g a.generators = g a := by
  rw [generators_eq, turns_view g Ay.envTick htick, hturned]

@[simp] theorem generators_regs (a : Ay) : a.generators.regs = a.regs :=
  generators_view Ay.regs (fun _ => rfl) (fun a => by rw [envTick_view]) a
@[simp] theorem generators_chipType (a : Ay) : a.generators.chipType = a.chipType :=
  generators_view Ay.chipType (fun _ => rfl) (fun a => by rw [envTick_view]) a
@[simp] theorem generators_flags (a : Ay) : a.generators.flags = a.flags :=
  generators_view Ay.flags (fun _ => rfl) (fun a => by rw [envTick_view]) a
@[simp] theorem generators_clockHz (a : Ay) : a.generators.clockHz = a.clockHz :=
  generators_view Ay.clockHz (fun _ => rfl) (fun a => by rw [envTick_view]) a
@[simp] theorem generators_sampleRateHz (a : Ay) : a.generators.sampleRateHz = a.sampleRateHz :=
  generators_view Ay.sampleRateHz (fun _ => rfl) (fun a => by rw [envTick_view]) a
@[simp] theorem generators_volumePercent (a : Ay) : a.generators.volumePercent = a.volumePercent :=
  generators_view Ay.volumePercent (fun _ => rfl) (fun a => by rw [envTick_view]) a
@[simp] theorem generators_freeCount (a : Ay) : a.generators.freeCount = a.freeCount :=
  generators_view Ay.freeCount (fun _ => rfl) (fun a => by rw [envTick_view]) a

theorem ayGrant_tone (a : Ay) (c : AyChannel) :
    a.grant.tone c = { a.tone c with counter := (a.tone c).counter + a.clockHz } := by
  cases c <;> rfl

/-- A tone in one AY sample: its turns and the grant (rules R170, R172). -/
theorem aySample_tone (a : Ay) (c : AyChannel) :
    a.sample.tone c = { a.turnedTone c with counter := (a.turnedTone c).counter + a.clockHz } := by
  rw [Ay.sample, ayGrant_tone, generators_tone, generators_clockHz]

/-- Settles O52: the tone's turns are `turnedTone`, whose phase is the old one unless the number of turns is odd. -/
theorem toneFlips : Obligations.ToneFlips := by
  intro a c _
  rw [aySample_tone]
  refine ⟨rfl, ?_⟩
  rcases Nat.mod_two_eq_zero_or_one ((a.tone c).counter / a.tonePeriod c) with h | h <;> simp [Ay.turnedTone, h]

/-- The word of a sample, the same 16 bits on both sides, as a number (rule R178). -/
theorem sampleWord_eq {m : Nat} (h : m ≤ 0xFFFF) : sampleWord m = BitVec.ofNat 32 (m * 0x10000 + m) := by
  apply BitVec.eq_of_toNat_eq
  rw [sampleWord, append_toNat, BitVec.toNat_ofNat, BitVec.toNat_ofNat, Nat.mod_eq_of_lt (by omega),
    Nat.mod_eq_of_lt (by omega)]
  omega

theorem aySampleResult_eq (a : Ay) :
    a.sampleResult = BitVec.ofNat 32 (a.generators.output * 0x10000 + a.generators.output) :=
  sampleWord_eq (Nat.min_le_left _ _)

/-- The grant and the sample as one record update of the generators' result. -/
theorem aySample_eq (a : Ay) :
    a.sample = { a.generators with
      toneA := { a.generators.toneA with counter := a.generators.toneA.counter + a.clockHz }
      toneB := { a.generators.toneB with counter := a.generators.toneB.counter + a.clockHz }
      toneC := { a.generators.toneC with counter := a.generators.toneC.counter + a.clockHz }
      noiseCounter := a.generators.noiseCounter + a.clockHz
      envCounter := a.generators.envCounter + a.clockHz
      freeCount := if a.generators.envLevel = none then a.freeCount + 1 else a.freeCount } := by
  simp only [Ay.sample, Ay.grant, generators_clockHz, generators_freeCount, Option.isNone_iff_eq_none]

theorem step_aySample {s : State} {rest : List HostOp} (h : s.performing .aySample rest) :
    step s = takeAySample (s.withQueue rest) := step_op h

/-- Settles O54: the sample is `aySample_eq` over `generators_eq`; at rate 0 the host operation refuses. -/
theorem aySampleStep : Obligations.AySampleStep := by
  intro s rest h
  rw [step_aySample h, takeAySample]
  refine ⟨fun hrate => if_pos hrate, fun hrate => ?_⟩
  intro a turned g granted
  have hg : g = a.generators := (generators_eq a).symm
  refine ⟨_, g.output, if_neg hrate, rfl, rfl, rfl, rfl, ?_, generators_regs a, generators_chipType a,
    generators_flags a, generators_clockHz a, generators_sampleRateHz a, generators_volumePercent a, rfl, ?_⟩
  · rw [hg]
    exact aySample_eq a
  · rw [hg, ← aySampleResult_eq]
    rfl

/-! ## The envelope -/

/-- The last step of the envelope as a number (rules R46, R151). -/
def Ay.envTop (a : Ay) : Nat := if Config.isAY8930 a.chipType then 31 else 15

theorem envTop_eq (a : Ay) : a.envTop = 15 ∨ a.envTop = 31 := by
  unfold Ay.envTop
  split
  · exact .inr rfl
  · exact .inl rfl

theorem envStepMask_eq (a : Ay) : a.envStepMask = BitVec.ofNat 5 a.envTop := by
  by_cases h : a.is8930 = true
  · rw [Ay.envStepMask, Ay.envTop, if_pos h, if_pos ((is8930_iff a).mp h)]
    rfl
  · rw [Ay.envStepMask, Ay.envTop, if_neg h, if_neg (mt (is8930_iff a).mpr h)]
    rfl

/-- The AY with its envelope at a step, in a ramp, running or held. -/
def Ay.withEnv (a : Ay) (pos : Nat) (ramp holding : Bool) : Ay :=
  { a with envPos := BitVec.ofNat 5 pos, envRamp := ramp, envHolding := holding }

theorem withEnv_start {a : Ay} (hpos : a.envPos = 0) (hramp : a.envRamp = false) (hhold : a.envHolding = false) :
    a.withEnv 0 false false = a := by
  cases a
  subst hpos hramp hhold
  rfl

@[simp] theorem withEnv_envPos (a : Ay) (pos : Nat) (ramp holding : Bool) :
    (a.withEnv pos ramp holding).envPos = BitVec.ofNat 5 pos := rfl
@[simp] theorem withEnv_envRamp (a : Ay) (pos : Nat) (ramp holding : Bool) :
    (a.withEnv pos ramp holding).envRamp = ramp := rfl
@[simp] theorem withEnv_envHolding (a : Ay) (pos : Nat) (ramp holding : Bool) :
    (a.withEnv pos ramp holding).envHolding = holding := rfl
@[simp] theorem withEnv_envStepMask (a : Ay) (pos : Nat) (ramp holding : Bool) :
    (a.withEnv pos ramp holding).envStepMask = a.envStepMask := rfl
@[simp] theorem withEnv_shapeContinue (a : Ay) (pos : Nat) (ramp holding : Bool) :
    (a.withEnv pos ramp holding).shapeContinue = a.shapeContinue := rfl
@[simp] theorem withEnv_shapeAttack (a : Ay) (pos : Nat) (ramp holding : Bool) :
    (a.withEnv pos ramp holding).shapeAttack = a.shapeAttack := rfl
@[simp] theorem withEnv_shapeAlternate (a : Ay) (pos : Nat) (ramp holding : Bool) :
    (a.withEnv pos ramp holding).shapeAlternate = a.shapeAlternate := rfl

/-- The shape plays one ramp and then holds (rule R174). -/
def Ay.singleRamp (a : Ay) : Bool := !a.shapeContinue || a.shapeHold

theorem envTick_held (a : Ay) (pos : Nat) (ramp : Bool) :
    (a.withEnv pos ramp true).envTick = a.withEnv pos ramp true := rfl

/-- A step of the envelope lies below the last one if its number does. -/
theorem envStep_lt_mask_iff (a : Ay) {pos : Nat} (h : pos ≤ a.envTop) :
    BitVec.ofNat 5 pos < a.envStepMask ↔ pos < a.envTop := by
  rw [envStepMask_eq, BitVec.lt_def, BitVec.toNat_ofNat, BitVec.toNat_ofNat]
  rcases envTop_eq a with e | e <;> rw [e] at h ⊢ <;> omega

/-- One turn of a running envelope (rule R174): up to the last step, and there the shape decides. -/
theorem envTick_running (a : Ay) {pos : Nat} (ramp : Bool) (h : pos ≤ a.envTop) :
    (a.withEnv pos ramp false).envTick =
      if pos < a.envTop then a.withEnv (pos + 1) ramp false
      else if a.singleRamp then a.withEnv pos ramp true
      else a.withEnv 0 (a.shapeAlternate ^^ ramp) false := by
  have hrunning : ¬ (a.withEnv pos ramp false).envHolding = true := Bool.false_ne_true
  have hlt : (a.withEnv pos ramp false).envPos < (a.withEnv pos ramp false).envStepMask ↔ pos < a.envTop :=
    envStep_lt_mask_iff a h
  have hramp : (if (a.withEnv pos ramp false).shapeAlternate then !ramp else ramp) = (a.shapeAlternate ^^ ramp) := by
    rw [withEnv_shapeAlternate]
    cases a.shapeAlternate <;> simp
  rw [Ay.envTick, if_neg hrunning]
  by_cases hp : pos < a.envTop
  · rw [if_pos (hlt.mpr hp), if_pos hp]
    exact congrArg (fun p => { a.withEnv pos ramp false with envPos := p }) (BitVec.ofNat_add pos 1).symm
  · rw [if_neg (mt hlt.mp hp), if_neg hp]
    cases hs : a.singleRamp with
    | true => exact if_pos hs
    | false => exact (if_neg (by rw [Bool.not_eq_true]; exact hs)).trans (congrArg (a.withEnv 0 · false) hramp)

/-- A shape of one ramp, `n` turns after its start: at step `n` up to the last one, and then held there. -/
theorem turns_envTick_single (a : Ay) (h : a.singleRamp = true) (n : Nat) :
    turns Ay.envTick n (a.withEnv 0 false false) = a.withEnv (min n a.envTop) false (decide (a.envTop < n)) := by
  induction n with
  | zero => simp [turns]
  | succ n ih =>
    rw [turns_succ_outer, ih]
    rcases Nat.lt_trichotomy n a.envTop with hn | hn | hn
    · rw [decide_eq_false (by omega), decide_eq_false (by omega), envTick_running a false (Nat.min_le_right _ _),
        Nat.min_eq_left hn.le, Nat.min_eq_left hn, if_pos hn]
    · rw [decide_eq_false (by omega), decide_eq_true (by omega), envTick_running a false (Nat.min_le_right _ _),
        Nat.min_eq_right hn.ge, Nat.min_eq_right (by omega), if_neg (Nat.lt_irrefl _), if_pos h]
    · rw [decide_eq_true hn, decide_eq_true (by omega), envTick_held, Nat.min_eq_right hn.le,
        Nat.min_eq_right (by omega)]

/-- A shape that goes on, `n` turns after its start: the step modulo the ramp's length, in the ramp of that number. -/
theorem turns_envTick_repeating (a : Ay) (h : a.singleRamp = false) (n : Nat) :
    turns Ay.envTick n (a.withEnv 0 false false) =
      a.withEnv (n % (a.envTop + 1)) (a.shapeAlternate && decide (n / (a.envTop + 1) % 2 = 1)) false := by
  induction n with
  | zero => simp [turns]
  | succ n ih =>
    have hmod : n % (a.envTop + 1) ≤ a.envTop := Nat.le_of_lt_succ (Nat.mod_lt _ (Nat.succ_pos _))
    rw [turns_succ_outer, ih, envTick_running a _ hmod]
    by_cases hn : n % (a.envTop + 1) < a.envTop
    · have hpos : (n + 1) % (a.envTop + 1) = n % (a.envTop + 1) + 1 := by
        rcases envTop_eq a with e | e <;> rw [e] at hn ⊢ <;> omega
      have hramp : (n + 1) / (a.envTop + 1) = n / (a.envTop + 1) := by
        rcases envTop_eq a with e | e <;> rw [e] at hn ⊢ <;> omega
      rw [if_pos hn, hpos, hramp]
    · have hpos : (n + 1) % (a.envTop + 1) = 0 := by
        rcases envTop_eq a with e | e <;> rw [e] at hn ⊢ <;> omega
      have hramp : (n + 1) / (a.envTop + 1) % 2 = 1 ↔ ¬ n / (a.envTop + 1) % 2 = 1 := by
        rcases envTop_eq a with e | e <;> rw [e] at hn ⊢ <;> omega
      rw [if_neg hn, h, hpos]
      simp only [hramp, decide_not]
      cases a.shapeAlternate <;> simp

/-- The level of a ramp, up or down, at a step. -/
def envRampLevel (up : Bool) (top i : Nat) : Nat := if up then i else top - i

theorem envRampLevel_eq {b : Bool} {up : Prop} [Decidable up] (h : b = true ↔ up) (top i : Nat) :
    envRampLevel b top i = if up then i else top - i :=
  if_congr h rfl rfl

/-- The level of a running envelope (rule R175). -/
theorem envLevel_running (a : Ay) {pos : Nat} (ramp : Bool) (h : pos ≤ a.envTop) :
    (a.withEnv pos ramp false).envLevel =
      some (BitVec.ofNat 5 (envRampLevel (a.shapeAttack ^^ (a.shapeAlternate && ramp)) a.envTop pos)) := by
  have hwithin : ¬ a.envStepMask < BitVec.ofNat 5 pos := by
    rw [envStepMask_eq, BitVec.lt_def, BitVec.toNat_ofNat, BitVec.toNat_ofNat]
    rcases envTop_eq a with e | e <;> rw [e] at h ⊢ <;> omega
  have hdown : a.envStepMask - BitVec.ofNat 5 pos = BitVec.ofNat 5 (a.envTop - pos) := by
    rw [envStepMask_eq]
    rcases envTop_eq a with e | e <;> rw [e] at h ⊢ <;> bv_omega
  simp only [Ay.envLevel, withEnv_envHolding, withEnv_envPos, withEnv_envStepMask, withEnv_shapeAttack,
    withEnv_shapeAlternate, withEnv_envRamp, hdown, envRampLevel, if_neg hwithin, apply_ite (BitVec.ofNat 5)]
  rfl

/-- The level of a held envelope (rule R175). -/
theorem envLevel_held (a : Ay) (pos : Nat) (ramp : Bool) :
    (a.withEnv pos ramp true).envLevel = some (BitVec.ofNat 5
      (if a.shapeContinue && (a.shapeAttack ^^ a.shapeAlternate) then a.envTop else 0)) := by
  simp only [Ay.envLevel, withEnv_envHolding, withEnv_shapeContinue, withEnv_shapeAttack,
    withEnv_shapeAlternate, envStepMask_eq]
  cases a.shapeContinue <;> cases a.shapeAttack <;> cases a.shapeAlternate <;> rfl

/-- The level `n` turns after the start of a shape of one ramp. -/
theorem envLevel_single (a : Ay) (h : a.singleRamp = true) (n : Nat) :
    (turns Ay.envTick n (a.withEnv 0 false false)).envLevel = some (BitVec.ofNat 5
      (if n ≤ a.envTop then envRampLevel a.shapeAttack a.envTop n
      else if a.shapeContinue && (a.shapeAttack ^^ a.shapeAlternate) then a.envTop else 0)) := by
  rw [turns_envTick_single a h]
  by_cases hn : n ≤ a.envTop
  · rw [decide_eq_false (by omega), envLevel_running a false (Nat.min_le_right _ _), if_pos hn, Nat.min_eq_left hn]
    simp
  · rw [decide_eq_true (by omega), envLevel_held, if_neg hn]

/-- The level `n` turns after the start of a shape that goes on. -/
theorem envLevel_repeating (a : Ay) (h : a.singleRamp = false) (n : Nat) :
    (turns Ay.envTick n (a.withEnv 0 false false)).envLevel = some (BitVec.ofNat 5
      (envRampLevel (a.shapeAttack ^^ (a.shapeAlternate && decide (n / (a.envTop + 1) % 2 = 1))) a.envTop
        (n % (a.envTop + 1)))) := by
  rw [turns_envTick_repeating a h, envLevel_running a _ (Nat.le_of_lt_succ (Nat.mod_lt _ (Nat.succ_pos _)))]
  simp

/-- The shape bits as digits of register 13 (rule R158). -/
theorem shapeBits_iff (a : Ay) :
    (a.shapeContinue = true ↔ (a.read 13).toNat / 8 % 2 = 1) ∧ (a.shapeAttack = true ↔ (a.read 13).toNat / 4 % 2 = 1) ∧
      (a.shapeAlternate = true ↔ (a.read 13).toNat / 2 % 2 = 1) ∧ (a.shapeHold = true ↔ (a.read 13).toNat % 2 = 1) := by
  simp only [Ay.shapeContinue, Ay.shapeAttack, Ay.shapeAlternate, Ay.shapeHold, ayReg_eq_read, getLsbD_eq_digit]
  simp

theorem singleRamp_iff (a : Ay) : a.singleRamp = true ↔ ¬ a.shapeContinue = true ∨ a.shapeHold = true := by
  simp [Ay.singleRamp]

/-- Settles O51: a shape of one ramp runs to the last step and holds there, any other plays ramps in turn. -/
theorem envelopeShapes : Obligations.EnvelopeShapes := by
  intro a n hpos hramp hhold top shape continue_ attack alternate hold ramp
  obtain ⟨hcontinue, hattack, halternate, hheld⟩ :
    (a.shapeContinue = true ↔ continue_) ∧ (a.shapeAttack = true ↔ attack) ∧ (a.shapeAlternate = true ↔ alternate) ∧
      (a.shapeHold = true ↔ hold) := shapeBits_iff a
  have hsingle : a.singleRamp = true ↔ ¬ continue_ ∨ hold := by rw [singleRamp_iff, hcontinue, hheld]
  have level {m m' : Nat} (h : (turns Ay.envTick n (a.withEnv 0 false false)).envLevel = some (BitVec.ofNat 5 m))
      (e : m = m') : (turns Ay.envTick n a).envLevel = some (BitVec.ofNat 5 m') := by
    rwa [withEnv_start hpos hramp hhold, e] at h
  by_cases hc : continue_
  · by_cases hh : hold
    · refine level (envLevel_single a (hsingle.mpr (.inr hh)) n) ?_
      have hend : (a.shapeContinue && (a.shapeAttack ^^ a.shapeAlternate)) = true ↔
          attack ∧ ¬ alternate ∨ ¬ attack ∧ alternate := by
        rw [hcontinue.mpr hc, ← hattack, ← halternate]
        cases a.shapeAttack <;> cases a.shapeAlternate <;> simp
      rw [if_neg (not_not.mpr hc), if_pos hh]
      exact if_congr Iff.rfl (envRampLevel_eq hattack _ _) (if_congr hend rfl rfl)
    · have hrepeats : a.singleRamp = false := by
        rw [← Bool.not_eq_true, hsingle]
        exact fun h => h.elim (absurd hc) hh
      refine level (envLevel_repeating a hrepeats n) ?_
      rw [if_neg (not_not.mpr hc), if_neg hh]
      by_cases hback : alternate ∧ n / (top + 1) % 2 = 1
      · rw [if_pos hback]
        refine envRampLevel_eq ?_ _ _
        rw [halternate.mpr hback.1, decide_eq_true (show n / (a.envTop + 1) % 2 = 1 from hback.2), ← hattack]
        simp
      · have hforth : (a.shapeAlternate && decide (n / (a.envTop + 1) % 2 = 1)) = false := by
          rw [← Bool.not_eq_true, Bool.and_eq_true, decide_eq_true_iff, halternate]
          exact hback
        rw [if_neg hback, hforth, Bool.xor_false]
        exact envRampLevel_eq hattack _ _
  · refine level (envLevel_single a (hsingle.mpr (.inl hc)) n) ?_
    have hsilent : ¬ (a.shapeContinue && (a.shapeAttack ^^ a.shapeAlternate)) = true := by
      rw [Bool.and_eq_true, hcontinue]
      exact fun h => hc h.1
    rw [if_pos hc, if_neg hsilent]
    exact if_congr Iff.rfl (envRampLevel_eq hattack _ _) rfl

/-! ## What a channel puts out -/

/-- `FixedIndex(v)` as arithmetic (rule R177). -/
theorem fixedIndex_eq (v : BitVec 4) :
    fixedIndex v = BitVec.ofNat 5 (if v.toNat = 0 then 0 else 2 * v.toNat + 1) := by
  revert v
  decide

/-- `EnvIndex(l)` as arithmetic (rule R177). -/
theorem envIndex_eq (a : Ay) (l : BitVec 5) :
    a.envIndex l = BitVec.ofNat 5 (if Config.isAY8930 a.chipType then l.toNat else 2 * l.toNat + 1) := by
  have hlong : (BitVec.ofNat 5 31 : BitVec 5) = 0x1F := rfl
  have hshort : (BitVec.ofNat 5 15 : BitVec 5) ≠ 0x1F := by decide
  rw [Ay.envIndex, envStepMask_eq, Ay.envTop]
  by_cases h : Config.isAY8930 a.chipType = true
  · rw [if_pos h, if_pos h, if_pos hlong, BitVec.ofNat_toNat, BitVec.setWidth_eq]
  · rw [if_neg h, if_neg h, if_neg hshort]
    revert l
    decide

theorem mixerBit_eq (a : Ay) (i : Nat) : a.mixerBit i = (a.read 7).getLsbD i := by
  rw [Ay.mixerBit, ayReg_eq_read]
  rfl

/-- A gate is open while its generator is high or its mixer bit is set (rule R176). -/
theorem ayGate_iff (a : Ay) (high : Bool) (i : Nat) :
    (high || a.mixerBit i) = true ↔ high = true ∨ (a.read 7).getLsbD i = true := by
  rw [Bool.or_eq_true, mixerBit_eq]

/-- Both gates of a channel are open (rule R176). -/
def Ay.gatesOpen (a : Ay) (c : AyChannel) : Prop :=
  ((a.tone c).phase = true ∨ (a.read 7).getLsbD c.index = true) ∧
    (a.noiseLfsr.getLsbD 0 = true ∨ (a.read 7).getLsbD (3 + c.index) = true)

theorem gatesOpen_iff (a : Ay) (c : AyChannel) :
    a.gatesOpen c ↔
      (((a.tone c).phase || a.mixerBit c.index) && (a.noiseLfsr.getLsbD 0 || a.mixerBit (3 + c.index))) = true := by
  rw [Bool.and_eq_true, ayGate_iff, ayGate_iff]
  rfl

theorem channelAmp_closed {a : Ay} {c : AyChannel} (h : ¬ a.gatesOpen c) : a.channelAmp c = 0 := by
  rw [gatesOpen_iff, Bool.not_eq_true] at h
  rw [Ay.channelAmp, h]
  rfl

/-- An open channel plays the envelope or its fixed level, by bit 4 of its register (rule R176). -/
theorem channelAmp_open {a : Ay} {c : AyChannel} (h : a.gatesOpen c) :
    a.channelAmp c =
      if (a.read (8 + c.index)).getLsbD 4 then a.envAmplitude
      else scaledLevel (Config.ayLevel (fixedIndex ((a.read (8 + c.index)).extractLsb' 0 4))) a.volumePercent := by
  obtain ⟨-, -, hreg⟩ := ayReg_channel a c
  rw [gatesOpen_iff] at h
  rw [Ay.channelAmp, h, hreg]
  rfl

/-- Settles O53: closed gates silence the channel, and open ones pass the level its register selects. -/
theorem ayGates : Obligations.AyGates := by
  intro a c mixer amp tone noise level
  refine ⟨channelAmp_closed, fun ht hn hfixed => ?_, fun ht hn henv l hl _ => ?_⟩
  · have hvalue : (amp.extractLsb' 0 4).toNat = amp.toNat % 16 := by simp
    rw [channelAmp_open ⟨ht, hn⟩, if_neg (by rw [Bool.not_eq_true]; exact hfixed), fixedIndex_eq, hvalue]
    rfl
  · rw [channelAmp_open ⟨ht, hn⟩, if_pos henv, Ay.envAmplitude, hl]
    exact congrArg (fun i => scaledLevel (Config.ayLevel i) a.volumePercent) (envIndex_eq a l)

end Sys2Proof.Machine
end

section
/-! SUPPORT and PROOF. The DMC's fetch, bit and timer, and the register writes of the APU, each as one record update. -/

namespace Sys2Proof.Machine

/-! ## Updates of the APU -/

/-- An update of the APU alone. -/
theorem onlyApu_with (s : State) (a : Apu) : OnlyApu s { s with apu := a } a :=
  ⟨rfl, rfl, rfl, rfl, rfl, fun _ => rfl⟩

/-- A command that does nothing but make the APU `b`, where `a` is `b` in the form a statement gives it. -/
theorem onlyApu_of_exec {i : Instr} {s : State} {a b : Apu} (h : exec i s = .next { s with apu := b }) (hb : b = a) :
    ∃ t, exec i s = .next t ∧ OnlyApu s t a :=
  ⟨_, h, hb ▸ onlyApu_with s b⟩

/-! ## The DMC -/

/-- The start of a sample, its address as arithmetic on the register (rule R221). -/
theorem dmcRestart_eq (a : Apu) :
    a.dmcRestart = { a with
      dmcAddr := BitVec.ofNat 16 (0xC000 + (a.reg 0x12).toNat * 64)
      dmcLen := (a.reg 0x13).toNat * 16 + 1
      dmcActive := true } := by
  have haddr : 0xC000 + (a.reg 0x12).setWidth 16 * 64 = BitVec.ofNat 16 (0xC000 + (a.reg 0x12).toNat * 64) := by
    bv_omega
  rw [Apu.dmcRestart, haddr]

/-- The address after a fetched byte (rule R252). -/
theorem dmcFilled_dmcAddr (b : Bus) (a : Apu) :
    (a.dmcFilled b).dmcAddr = BitVec.ofNat 16 (if a.dmcAddr.toNat = 0xFFFF then 0x8000 else a.dmcAddr.toNat + 1) := by
  by_cases h : a.dmcAddr = 0xFFFF
  · have hnat : a.dmcAddr.toNat = 0xFFFF := congrArg BitVec.toNat h
    simp only [Apu.dmcFilled, if_pos h, if_pos hnat]
    rfl
  · have hnat : a.dmcAddr.toNat ≠ 0xFFFF := fun e => h (BitVec.eq_of_toNat_eq e)
    simp only [Apu.dmcFilled, if_neg h, if_neg hnat]
    bv_omega

/-- A fetch that leaves bytes to play goes no further than the fill. -/
theorem dmcFetch_of_more (b : Bus) {a : Apu} (h : 1 < a.dmcLen) : a.dmcFetch b = a.dmcFilled b := by
  have hmore : (a.dmcFilled b).dmcLen ≠ 0 := Nat.sub_ne_zero_of_lt h
  rw [dmcFetch_eq, if_pos hmore]

/-- The last byte of a sample restarts it or ends it (rule R252). -/
theorem dmcFetch_of_last (b : Bus) {a : Apu} (h : a.dmcLen = 1) :
    a.dmcFetch b =
      if (a.reg 0x10).getLsbD 6 then (a.dmcFilled b).dmcRestart
      else { a.dmcFilled b with dmcActive := false, dmcIrqFlag := a.dmcIrqFlag || (a.reg 0x10).getLsbD 7 } := by
  have hlast : (a.dmcFilled b).dmcLen = 0 := by rw [Apu.dmcFilled, h]
  rw [dmcFetch_eq, if_neg (not_not.mpr hlast)]

/-- Every fetch leaves eight bits in the buffer (rule R252). -/
theorem dmcFetch_sequencer (b : Bus) (a : Apu) : (a.dmcFetch b).dmc.sequencer = 8 := by
  rw [dmcFetch_eq]
  repeat' split
  all_goals rfl

/-- One turn of the timer (rule R250): a bit of the buffer, or of the byte a playing channel fetches for it. -/
theorem dmcTick_eq (b : Bus) (a : Apu) :
    a.dmcTick b =
      if a.dmc.sequencer ≠ 0 then a.dmcBit else if a.dmcActive then (a.dmcFetch b).dmcBit else a := by
  by_cases hbits : a.dmc.sequencer = 0
  · by_cases hactive : a.dmcActive = true
    · have hfetched : (a.dmcFetch b).dmc.sequencer ≠ 0 := by
        rw [dmcFetch_sequencer]
        decide
      simp only [Apu.dmcTick, if_pos (And.intro hbits hactive), if_neg hfetched, if_neg (not_not.mpr hbits),
        if_pos hactive]
    · have hidle : ¬ (a.dmc.sequencer = 0 ∧ a.dmcActive = true) := fun h => hactive h.2
      simp only [Apu.dmcTick, if_neg hidle, if_pos hbits, if_neg (not_not.mpr hbits), if_neg hactive]
  · have hidle : ¬ (a.dmc.sequencer = 0 ∧ a.dmcActive = true) := fun h => hbits h.1
    simp only [Apu.dmcTick, if_neg hidle, if_neg hbits, if_pos hbits]

/-- One bit of the buffer (rule R253): the shift is a halving, and the delta counter stops at 0. -/
theorem dmcBit_eq (a : Apu) :
    a.dmcBit = { a with
      dmcDelta :=
        if a.dmcBuffer.getLsbD 0 then min (a.dmcDelta + 2) 127 else if a.dmcDelta ≥ 2 then a.dmcDelta - 2 else 0
      dmcBuffer := BitVec.ofNat 8 (a.dmcBuffer.toNat / 2)
      dmc := { a.dmc with sequencer := a.dmc.sequencer - 1 } } := by
  have hshift : a.dmcBuffer >>> 1 = BitVec.ofNat 8 (a.dmcBuffer.toNat / 2) := by
    bv_omega
  have hfall : a.dmcDelta - 2 = if a.dmcDelta ≥ 2 then a.dmcDelta - 2 else 0 := by
    split <;> omega
  rw [Apu.dmcBit, hshift, ← hfall]

/-- Settles O46: the fetch by what it leaves of the sample, the timer's turn by `dmcTick_eq`. -/
theorem dmcFetch : Obligations.DmcFetch := by
  refine ⟨fun b a hactive => ?_, dmcBit_eq, fun b a => ?_⟩
  · intro loop next filled
    have hnext : (a.dmcFilled b).dmcAddr = next := dmcFilled_dmcAddr b a
    have hfilled : a.dmcFilled b = { filled with dmcAddr := next, dmcLen := a.dmcLen - 1 } := by
      rw [← hnext]
      rfl
    refine ⟨fun hmore => ?_, fun hlast hloop => ?_, fun hlast hloop => ?_⟩
    · rw [dmcFetch_of_more b hmore, hfilled]
    · rw [dmcFetch_of_last b hlast, if_pos hloop, dmcRestart_eq, ← hactive]
      rfl
    · rw [dmcFetch_of_last b hlast, if_neg (ne_true_of_eq_false hloop), hfilled, hlast]
  · intro turn
    have hturn : Apu.dmcTick b = turn := funext (dmcTick_eq b)
    rw [← hturn]
    rfl

/-! ## The writes that are the store alone -/

/-- The number of the unlisted registers from 0x18 on. -/
theorem high_index_toNat : ∀ k : BitVec 3, (UnlistedReg.high k).index.toNat = 0x18 + k.toNat := by
  decide

/-- Settles O33: each command is one update of the register file. -/
theorem apuPlainWrites : Obligations.ApuPlainWrites := by
  intro v s
  have stores {i : Instr} (k : Fin 32)
      (h : exec i s = .next { s with apu := { s.apu with regs := s.apu.regs.set k v } }) := onlyApu_of_exec h rfl
  refine ⟨?_, fun k => onlyApu_of_exec rfl ?_⟩
  · simp only [List.forall_mem_cons, List.not_mem_nil, false_implies, implies_true, and_true]
    exact ⟨stores 0x00 rfl, stores 0x01 rfl, stores 0x02 rfl, stores 0x04 rfl, stores 0x05 rfl, stores 0x06 rfl,
      stores 0x08 rfl, stores 0x0A rfl, stores 0x0C rfl, stores 0x12 rfl, stores 0x13 rfl, stores 0x09 rfl,
      stores 0x0D rfl, stores 0x14 rfl, stores 0x16 rfl⟩
  · rw [Apu.writeUnlisted, Apu.setReg, ← high_index_toNat, vector_set!_eq_set]

/-! ## The writes that load a length -/

theorem lengthTable_eq (v : Byte) :
    lengthTable (v.extractLsb' 3 5) = [10, 254, 20, 2, 40, 4, 80, 6, 160, 8, 60, 10, 14, 12, 26, 14, 12, 16, 24, 18, 48,
      20, 96, 22, 192, 24, 72, 26, 16, 28, 32, 30].getD (v.toNat / 8) 0 := by
  have hindex : (v.extractLsb' 3 5).toNat = v.toNat / 8 := by
    rw [extractLsb'_toNat_mod]
    omega
  rw [lengthTable, hindex]

/-- The length of channel `k` after a write of `v` to its length register (rule R220). -/
def Apu.loadedLength (a : Apu) (k : ChannelId) (v : Byte) : Nat :=
  if a.enabled k then lengthTable (v.extractLsb' 3 5) else (a.channel k).lenCounter

/-- The store to another register leaves the enables alone, so the load goes by the old ones. -/
theorem loadLength_setReg (a : Apu) {i : BitVec 5} (hi : i ≠ 0x15) (k : ChannelId) (v : Byte) :
    (a.setReg i v).loadLength k v =
      (a.setReg i v).setChannel k { a.channel k with lenCounter := a.loadedLength k v } := by
  have hon : (a.setReg i v).enabled k = a.enabled k := by
    rw [Apu.enabled, reg_setReg, if_neg hi.symm, Apu.enabled]
  rw [Apu.loadLength, Apu.loadedLength, hon, channel_setReg]
  split
  · rfl
  · rw [← channel_setReg a i v k, setChannel_channel]

theorem writePulseLength_eq (a : Apu) {i : BitVec 5} (hi : i ≠ 0x15) (k : ChannelId) (v : Byte) :
    a.writePulseLength k i v = (a.setReg i v).setChannel k { a.channel k with
      lenCounter := a.loadedLength k v, updateEnvelope := true, sequencer := 0 } := by
  simp only [Apu.writePulseLength, loadLength_setReg a hi, setChannel_setChannel, channel_setChannel_same]

theorem writeTriangleLength_eq (a : Apu) (v : Byte) :
    a.writeTriangleLength v = (a.setReg 0x0B v).setChannel .triangle { a.triangle with
      lenCounter := a.loadedLength .triangle v, linearReloadFlag := true } := by
  rw [Apu.writeTriangleLength, loadLength_setReg a (by decide)]
  rfl

theorem writeNoiseLength_eq (a : Apu) (v : Byte) :
    a.writeNoiseLength v = (a.setReg 0x0F v).setChannel .noise { a.noise with
      lenCounter := a.loadedLength .noise v, updateEnvelope := true } := by
  rw [Apu.writeNoiseLength, loadLength_setReg a (by decide)]
  rfl

/-- A change of the mode bit, and no other write, restarts the noise register (rule R204). -/
theorem writeNoiseMode_eq (a : Apu) (v : Byte) :
    a.writeNoiseMode v = { a.setReg 0x0E v with
      noiseLfsr := if v.getLsbD 7 = (a.reg 0x0E).getLsbD 7 then a.noiseLfsr else 1 } := by
  by_cases h : v.getLsbD 7 = (a.reg 0x0E).getLsbD 7
  · rw [Apu.writeNoiseMode, if_neg (fun hne => bne_iff_ne.mp hne h), if_pos h]
    rfl
  · rw [Apu.writeNoiseMode, if_pos (bne_iff_ne.mpr h), if_neg h]

/-- Settles O35: every length write stores, loads the length and sets its channel's flags. -/
theorem lengthWrites : Obligations.LengthWrites := by
  intro v s table len
  have hlen (k : ChannelId) : s.apu.loadedLength k v = len (s.apu.channel k) k.enableBit := by
    rw [Apu.loadedLength, lengthTable_eq]
    rfl
  refine ⟨onlyApu_of_exec rfl ?_, onlyApu_of_exec rfl ?_, onlyApu_of_exec rfl ?_, onlyApu_of_exec rfl ?_,
    onlyApu_of_exec rfl (writeNoiseMode_eq s.apu v)⟩
  · rw [Apu.writePulse1Length, writePulseLength_eq s.apu (by decide), hlen]
    rfl
  · rw [Apu.writePulse2Length, writePulseLength_eq s.apu (by decide), hlen]
    rfl
  · rw [writeTriangleLength_eq, hlen]
    rfl
  · rw [writeNoiseLength_eq, hlen]
    rfl

/-! ## The writes of DMC control, DMC delta, enables and frame counter -/

/-- Writing the interrupt enable 0 clears the flag (rule R206). -/
theorem writeDmcControl_eq (a : Apu) (v : Byte) :
    a.writeDmcControl v = { a.setReg 0x10 v with dmcIrqFlag := a.dmcIrqFlag && v.getLsbD 7 } := by
  cases h : v.getLsbD 7 with
  | true =>
    rw [Apu.writeDmcControl, if_pos h, Bool.and_true]
    rfl
  | false => rw [Apu.writeDmcControl, if_neg (ne_true_of_eq_false h), Bool.and_false]

theorem writeDmcDelta_eq (a : Apu) (v : Byte) :
    a.writeDmcDelta v = { a.setReg 0x11 v with dmcDelta := v.toNat % 0x80 } := by
  have hdelta : (v.extractLsb' 0 7).toNat = v.toNat % 0x80 := by
    rw [extractLsb'_toNat_mod]
    simp
  rw [Apu.writeDmcDelta, hdelta]

/-- A write of the enables stops the DMC, leaves a playing one alone, or starts one that does not play (rule R210). -/
theorem enableDmc_eq (a : Apu) (v : Byte) :
    a.enableDmc v = { a with
      dmcActive := v.getLsbD 4
      dmcAddr :=
        if v.getLsbD 4 && !a.dmcActive then BitVec.ofNat 16 (0xC000 + (a.reg 0x12).toNat * 64) else a.dmcAddr
      dmcLen :=
        if v.getLsbD 4 then (if v.getLsbD 4 && !a.dmcActive then (a.reg 0x13).toNat * 16 + 1 else a.dmcLen)
        else 0 } := by
  rw [Apu.enableDmc]
  cases v.getLsbD 4 with
  | false => rfl
  | true =>
    cases hactive : a.dmcActive with
    | false => exact dmcRestart_eq a
    | true => exact congrArg (fun playing => { a with dmcActive := playing }) hactive

/-- The part of the enables' write that reaches the four length counters. -/
theorem storeEnables_eq (a : Apu) (v : Byte) :
    a.storeEnables v = { a.setReg 0x15 v with
      pulse1 := (a.storeEnables v).channel .pulse1, pulse2 := (a.storeEnables v).channel .pulse2
      triangle := (a.storeEnables v).channel .triangle, noise := (a.storeEnables v).channel .noise } := by
  simp only [Apu.storeEnables, silenceIfClear_eq]
  rfl

/-- Settles O36: the enables' write is the store with its silenced channels, then the DMC's part by `enableDmc_eq`. -/
theorem controlWrites : Obligations.ControlWrites := by
  intro v s len starts
  refine ⟨onlyApu_of_exec rfl (writeDmcControl_eq s.apu v), onlyApu_of_exec rfl (writeDmcDelta_eq s.apu v),
    onlyApu_of_exec rfl rfl, onlyApu_of_exec rfl ?_⟩
  have hlen (k : ChannelId) (hk : k ≠ .dmc) :
      (s.apu.storeEnables v).channel k = len (s.apu.channel k) k.enableBit := by
    rw [storeEnables_channel]
    simp only [hk, false_or]
    rfl
  have hstored := storeEnables_eq s.apu v
  rw [hlen .pulse1 (by decide), hlen .pulse2 (by decide), hlen .triangle (by decide), hlen .noise (by decide)]
    at hstored
  have hreg (i : BitVec 5) (hi : i ≠ 0x15) : (s.apu.storeEnables v).reg i = s.apu.reg i := by
    rw [reg_of_regs (storeEnables_regs s.apu v), reg_setReg, if_neg hi]
  rw [writeEnables_eq, enableDmc_eq, hreg 0x12 (by decide), hreg 0x13 (by decide), hstored]
  rfl

end Sys2Proof.Machine
end

section
/-! SUPPORT. What the clocks of a frame step and the stages of an APU sample leave, each said once. -/

namespace Sys2Proof.Machine

/-! ## One envelope clock -/

/-- The divider an envelope clock leaves (rule R237): a start or a divider at 0 reloads it. -/
def Apu.envelopeDivider (a : Apu) (k : ChannelId) : BitVec 4 :=
  if (a.channel k).updateEnvelope = true ∨ (a.channel k).divider = 0 then (a.reg k.controlReg).extractLsb' 0 4
  else (a.channel k).divider - 1

/-- The level an envelope clock leaves (rule R237): only a start or a divider at 0 moves it. -/
def Apu.envelopeLevel (a : Apu) (k : ChannelId) : BitVec 4 :=
  if (a.channel k).updateEnvelope then 15
  else if (a.channel k).divider ≠ 0 then (a.channel k).decayCounter
  else if (a.channel k).decayCounter ≠ 0 then (a.channel k).decayCounter - 1
  else if (a.reg k.controlReg).getLsbD 5 then 15 else (a.channel k).decayCounter

theorem envelopeClock_eq (a : Apu) (k : ChannelId) :
    a.envelopeClock k = a.setChannel k { a.channel k with
      updateEnvelope := false, decayCounter := a.envelopeLevel k, divider := a.envelopeDivider k } := by
  simp only [Apu.envelopeClock, Apu.envelopeLevel, Apu.envelopeDivider]
  by_cases hstart : (a.channel k).updateEnvelope = true
  · rw [if_pos hstart, if_pos hstart, if_pos (.inl hstart)]
  · have hcleared : (a.channel k).updateEnvelope = false := eq_false_of_ne_true hstart
    by_cases hzero : (a.channel k).divider = 0
    · rw [if_neg hstart, if_neg hstart, if_pos hzero, if_neg (not_not.mpr hzero), if_pos (Or.inr hzero),
        hcleared]
    · rw [if_neg hstart, if_neg hstart, if_neg hzero, if_neg (not_or.mpr ⟨hstart, hzero⟩), if_pos hzero, ← hcleared]

theorem envelopeDivider_toNat (a : Apu) (k : ChannelId) :
    (a.envelopeDivider k).toNat =
      if (a.channel k).updateEnvelope = true ∨ (a.channel k).divider.toNat = 0 then (a.reg k.controlReg).toNat % 16
      else (a.channel k).divider.toNat - 1 := by
  have hzero : (a.channel k).divider.toNat = 0 ↔ (a.channel k).divider = 0 := BitVec.toNat_inj (y := 0)
  simp only [hzero, Apu.envelopeDivider]
  split
  · exact lowNibble_toNat _
  case isFalse h =>
    have hdivider : (a.channel k).divider ≠ 0 := fun e => h (.inr e)
    bv_omega

theorem envelopeLevel_toNat (a : Apu) (k : ChannelId) :
    (a.envelopeLevel k).toNat =
      if (a.channel k).updateEnvelope then 15
      else if (a.channel k).divider.toNat ≠ 0 then (a.channel k).decayCounter.toNat
      else if (a.channel k).decayCounter.toNat ≠ 0 then (a.channel k).decayCounter.toNat - 1
      else if (a.reg k.controlReg).getLsbD 5 then 15 else 0 := by
  have hzero (v : BitVec 4) : v.toNat ≠ 0 ↔ v ≠ 0 := BitVec.toNat_ne_iff_ne (y := 0)
  simp only [hzero, Apu.envelopeLevel]
  split
  · rfl
  · split
    · rfl
    · split
      case isTrue hlevel => bv_omega
      case isFalse hlevel =>
        rw [not_not.mp hlevel]
        split <;> rfl

/-! ## The clocks of a frame step -/

/-- Channel `k` after its envelope's clock, which a `quarter` signal gives (rule R232). -/
def Apu.envelopeClocked (a : Apu) (quarter : Bool) (k : ChannelId) : Channel :=
  if quarter then (a.envelopeClock k).channel k else a.channel k

/-- A record `c` of channel `k` after its length counter's clock, which a `half` signal gives (rule R232). -/
def Apu.lengthClocked (a : Apu) (half : Bool) (k : ChannelId) (c : Channel) : Channel :=
  if half then { c with lenCounter := ((a.lengthClock k).channel k).lenCounter } else c

/-- A record `c` after the clock of the sweep divider of register `r`, which a `half` signal gives (rules R232, R241). -/
def Apu.sweepClocked (a : Apu) (half : Bool) (r : BitVec 5) (c : Channel) : Channel :=
  if half then
    { c with sweepCounter := if c.sweepCounter = 0 then (a.reg r).toNat / 16 % 8 else c.sweepCounter - 1 }
  else c

/-- The APU after the clocks that the signals `quarter` and `half` give (rule R232), channel by channel. -/
def Apu.clocked (a : Apu) (quarter half : Bool) : Apu :=
  { a with
    pulse1 := a.sweepClocked half 0x01 (a.lengthClocked half .pulse1 (a.envelopeClocked quarter .pulse1))
    pulse2 := a.sweepClocked half 0x05 (a.lengthClocked half .pulse2 (a.envelopeClocked quarter .pulse2))
    triangle := a.lengthClocked half .triangle (if quarter then a.linearClock.triangle else a.triangle)
    noise := a.lengthClocked half .noise (a.envelopeClocked quarter .noise) }

theorem quarterClocks_eq (a : Apu) : a.quarterClocks = a.clocked true false := rfl

theorem sweepClock_eq (a : Apu) (k : ChannelId) (r : BitVec 5) :
    a.sweepClock k r = a.setChannel k (a.sweepClocked true r (a.channel k)) := by
  have hreload : ((a.reg r).extractLsb' 4 3).toNat = (a.reg r).toNat / 16 % 8 := extractLsb'_toNat_mod _ _ _
  rw [Apu.sweepClock, hreload]
  rfl

theorem halfClocks_eq (a : Apu) : a.halfClocks = a.clocked false true := by
  simp only [Apu.halfClocks, sweepClock_eq, lengthClock_eq, Apu.clocked, Apu.lengthClocked]
  rfl

theorem halfClocks_quarterClocks_eq (a : Apu) : a.quarterClocks.halfClocks = a.clocked true true := by
  rw [halfClocks_eq]
  simp only [Apu.quarterClocks, envelopeClock_eq, lengthClock_eq, Apu.clocked, Apu.lengthClocked, Apu.envelopeClocked]
  rfl

/-- The clocks of a frame step with the signals `quarter` and `half`, in the order `Apu.frameStep` gives them. -/
theorem clocks_eq (a : Apu) (quarter half : Bool) :
    (if half then (if quarter then a.quarterClocks else a).halfClocks else if quarter then a.quarterClocks else a) =
      a.clocked quarter half := by
  cases half with
  | false =>
    cases quarter with
    | false => rfl
    | true => exact quarterClocks_eq a
  | true =>
    cases quarter with
    | false => exact halfClocks_eq a
    | true => exact halfClocks_quarterClocks_eq a

/-- `quarter` in the coming frame step: all but the fourth of the five steps of the long mode (rules R232, R233). -/
def Apu.quarterSignal (a : Apu) : Bool := if (a.reg 0x17).getLsbD 7 then a.frames + 1 != 4 else true

/-- `half` in the coming frame step: the second and the last (rules R232, R233). -/
def Apu.halfSignal (a : Apu) : Bool :=
  if (a.reg 0x17).getLsbD 7 then a.frames + 1 == 2 || a.frames + 1 == 5 else a.frames + 1 == 2 || a.frames + 1 == 4

/-- `full` in the coming frame step: it is the last of its sequence, or beyond it (rules R232, R233). -/
def Apu.fullSignal (a : Apu) : Bool :=
  if (a.reg 0x17).getLsbD 7 then decide (5 ≤ a.frames + 1) else decide (4 ≤ a.frames + 1)

/-- The clocks neither read the signals nor change them. -/
theorem clocked_signals (a : Apu) (quarter half full : Bool) :
    Apu.clocked { a with quarter := quarter, half := half, full := full } quarter half =
      { a.clocked quarter half with quarter := quarter, half := half, full := full } := by
  simp only [Apu.clocked, Apu.lengthClocked, lengthClock_eq]
  rfl

/-- A frame step: the three signals, the clocks they give, and the phase (rules R232, R233). -/
theorem frameStep_eq (a : Apu) :
    a.frameStep = { a.clocked a.quarterSignal a.halfSignal with
      quarter := a.quarterSignal, half := a.halfSignal, full := a.fullSignal
      frames := if a.fullSignal then 0 else a.frames + 1 } := by
  have hclocks := (clocks_eq { a with quarter := a.quarterSignal, half := a.halfSignal, full := a.fullSignal }
    a.quarterSignal a.halfSignal).trans (clocked_signals a _ _ _)
  exact congrArg (fun b : Apu => { b with frames := if a.fullSignal then 0 else a.frames + 1 }) hclocks

/-! ## The volume, the grant and the word of a sample -/

@[simp] theorem frameStep_volumePercent (a : Apu) : a.frameStep.volumePercent = a.volumePercent := by
  rw [frameStep_eq]
  rfl

@[simp] theorem runFrames_volumePercent (a : Apu) : a.runFrames.volumePercent = a.volumePercent :=
  turns_view Apu.volumePercent _ frameStep_volumePercent _ _

@[simp] theorem reduceCounter_volumePercent (a : Apu) (k : ChannelId) :
    (a.reduceCounter k).volumePercent = a.volumePercent := by simp [Apu.reduceCounter]
@[simp] theorem pulseTimer_volumePercent (a : Apu) (k : ChannelId) :
    (a.pulseTimer k).volumePercent = a.volumePercent := by simp [Apu.pulseTimer]
@[simp] theorem triangleTimer_volumePercent (a : Apu) : a.triangleTimer.volumePercent = a.volumePercent := by
  simp [triangleTimer_turns]
@[simp] theorem noiseTimer_volumePercent (a : Apu) : a.noiseTimer.volumePercent = a.volumePercent := by
  simp [noiseTimer_eq]

theorem outsideDmc_volumePercent (a : Apu) : a.outsideDmc.volumePercent = a.volumePercent := rfl

@[simp] theorem dmcTimer_volumePercent (b : Bus) (a : Apu) : (a.dmcTimer b).volumePercent = a.volumePercent := by
  rw [← outsideDmc_volumePercent, dmcTimer_outsideDmc, outsideDmc_volumePercent, reduceCounter_volumePercent]

@[simp] theorem outputs_volumePercent (a : Apu) : a.outputs.volumePercent = a.volumePercent := rfl

/-- The volume is the host's alone (rule R36). -/
theorem sample_volumePercent (b : Bus) (a : Apu) : (a.sample b).volumePercent = a.volumePercent := by
  have houtputs : (a.sampleOutputs b).volumePercent = a.volumePercent := by simp [Apu.sampleOutputs]
  exact houtputs

/-- The grant as one record update (rule R255). -/
theorem grant_eq (a : Apu) :
    a.grant = { a with
      pulse1 := { a.pulse1 with counter := a.pulse1.counter + cpuClockHz }
      pulse2 := { a.pulse2 with counter := a.pulse2.counter + cpuClockHz }
      triangle := { a.triangle with counter := a.triangle.counter + cpuClockHz }
      noise := { a.noise with counter := a.noise.counter + cpuClockHz }
      dmc := { a.dmc with counter := a.dmc.counter + cpuClockHz }
      lastFrameCounter := a.lastFrameCounter + cpuClockHz } := rfl

/-- The grant moves no output, so the mix of a sample can be read off the APU it leaves (rules R255, R257). -/
theorem mix_grant (a : Apu) : a.grant.mix = a.mix := rfl

theorem mix_le (a : Apu) : a.mix ≤ 0xFFFF := Nat.min_le_left _ _

/-- The word of an APU sample, the same 16 bits on both sides (rule R258). -/
theorem apuSampleResult_eq (b : Bus) (a : Apu) :
    a.sampleResult b = BitVec.ofNat 32 ((a.sample b).mix * 0x10000 + (a.sample b).mix) := by
  rw [Apu.sample, mix_grant]
  exact sampleWord_eq (mix_le _)

theorem step_apuSample {s : State} {rest : List HostOp} (h : s.performing .apuSample rest) :
    step s = takeApuSample (s.withQueue rest) := step_op h

end Sys2Proof.Machine
end

section
/-! PROOF. The statements about a frame step, an envelope and the whole of an APU sample. -/

namespace Sys2Proof.Machine

/-- Settles O40: the step is `frameStep_eq`; below the end of its sequence, `full` comes with the last step only. -/
theorem frameSignals : Obligations.FrameSignals := by
  intro a hok b s envelope length sweep
  have hb : b = _ := frameStep_eq a
  have hquarter : b.quarter = a.quarterSignal := congrArg Apu.quarter hb
  have hhalf : b.half = a.halfSignal := congrArg Apu.half hb
  have hfull : b.full = a.fullSignal := congrArg Apu.full hb
  have hframes : b.frames = if a.fullSignal then 0 else s := congrArg Apu.frames hb
  refine ⟨?_, ?_⟩
  · rw [hquarter, hhalf, hfull, hframes, Apu.quarterSignal, Apu.halfSignal, Apu.fullSignal]
    unfold Apu.framesOk at hok
    cases hmode : (a.reg 0x17).getLsbD 7 with
    | true =>
      rw [hmode, if_pos rfl] at hok
      have hlast : 5 ≤ s ↔ s = 5 := by omega
      simp [s, hlast, bne, beq_eq_decide]
    | false =>
      rw [hmode, if_neg (by decide)] at hok
      have hlast : 4 ≤ s ↔ s = 4 := by omega
      simp [s, hlast, beq_eq_decide]
  · show b = { a.clocked b.quarter b.half with quarter := b.quarter, half := b.half, full := b.full, frames := b.frames }
    rw [hquarter, hhalf, hfull, hframes]
    exact hb

/-- An envelope past its start, at `level`, that the next clock will move. -/
def Channel.EnvelopeAt (c : Channel) (level : Nat) : Prop :=
  c.updateEnvelope = false ∧ c.divider.toNat = 0 ∧ c.decayCounter.toNat = level

theorem envelopeClock_of_start {a : Apu} {k : ChannelId} (hstart : (a.channel k).updateEnvelope = true)
    (hperiod : (a.reg k.controlReg).toNat % 16 = 0) : ((a.envelopeClock k).channel k).EnvelopeAt 15 := by
  rw [envelopeClock_eq, channel_setChannel_same]
  refine ⟨rfl, ?_, ?_⟩
  · exact (envelopeDivider_toNat a k).trans (by rw [if_pos (.inl hstart), hperiod])
  · exact (envelopeLevel_toNat a k).trans (if_pos hstart)

/-- With divider period 0 and no loop, every clock lowers the level, down to 0 (rule R237). -/
theorem envelopeClock_of_envelopeAt {a : Apu} {k : ChannelId} {level : Nat} (h : (a.channel k).EnvelopeAt level)
    (hloop : (a.reg k.controlReg).getLsbD 5 = false) (hperiod : (a.reg k.controlReg).toNat % 16 = 0) :
    ((a.envelopeClock k).channel k).EnvelopeAt (level - 1) := by
  obtain ⟨hstarted, hdivider, hlevel⟩ := h
  rw [envelopeClock_eq, channel_setChannel_same]
  refine ⟨rfl, ?_, ?_⟩
  · exact (envelopeDivider_toNat a k).trans (by rw [if_pos (.inr hdivider), hperiod])
  · refine (envelopeLevel_toNat a k).trans ?_
    rw [hstarted, hdivider, hlevel, hloop, if_neg Bool.false_ne_true, if_neg (not_not.mpr rfl),
      if_neg Bool.false_ne_true]
    split <;> omega

theorem turns_envelopeClock_of_start {a : Apu} {k : ChannelId} (hstart : (a.channel k).updateEnvelope = true)
    (hloop : (a.reg k.controlReg).getLsbD 5 = false) (hperiod : (a.reg k.controlReg).toNat % 16 = 0) (n : Nat) :
    ((turns (Apu.envelopeClock k) (n + 1) a).channel k).EnvelopeAt (15 - n) := by
  induction n with
  | zero => exact envelopeClock_of_start hstart hperiod
  | succ n ih =>
    have hcontrol : (turns (Apu.envelopeClock k) (n + 1) a).reg k.controlReg = a.reg k.controlReg :=
      reg_of_regs (turns_view Apu.regs _ (fun a => envelopeClock_regs a k) _ _) _
    rw [turns_succ_outer]
    exact envelopeClock_of_envelopeAt ih (hcontrol ▸ hloop) (hcontrol ▸ hperiod)

/-- Settles O42: one clock by `envelopeClock_eq`, the fall by induction on the clocks. -/
theorem envelopeDecay : Obligations.EnvelopeDecay := by
  intro a k n _ c period loop
  refine ⟨⟨a.envelopeLevel k, a.envelopeDivider k, envelopeClock_eq a k, envelopeDivider_toNat a k,
    envelopeLevel_toNat a k⟩, fun hstart hloop hperiod => ?_⟩
  obtain ⟨-, -, hlevel⟩ := turns_envelopeClock_of_start hstart hloop hperiod n
  exact hlevel

/-- Settles O49: the host operation is `takeApuSample`, the stages are `Apu.sample` with its constants evaluated. -/
theorem apuSampleStep : Obligations.ApuSampleStep := by
  intro s rest h due framed timed o granted
  have hperiod : framePeriod = 328853700 := rfl
  have hframed : s.apu.runFrames = framed := by
    rw [Apu.runFrames, hperiod]
  have houtputs : s.apu.sampleOutputs s.bus = o := by
    rw [Apu.sampleOutputs, hframed]
    rfl
  refine ⟨_, (s.apu.sample s.bus).mix, step_apuSample h, rfl, rfl, rfl, rfl, ?_, sample_regs s.bus s.apu,
    sample_volumePercent s.bus s.apu, mix_le _, rfl, ?_⟩
  · rw [← houtputs]
    exact grant_eq _
  · rw [← apuSampleResult_eq]
    rfl

end Sys2Proof.Machine
end

section
/-! SUPPORT and PROOF. Loads, stores, transfers and the stack instructions: each meaning as one shared operation after
`advance`, the frame of that operation, and pulls that undo pushes. -/

namespace Sys2Proof.Machine

/-! ## The meanings -/

theorem exec_lda (m : Src) (s : State) :
    exec (.lda m) s = .next (loadA (srcValue m s) (advance (srcLength m) s)) := rfl

theorem exec_ldx (m : Src) (s : State) :
    exec (.ldx m) s = .next (loadX (srcValue m s) (advance (srcLength m) s)) := rfl

theorem exec_ldy (m : Src) (s : State) :
    exec (.ldy m) s = .next (loadY (srcValue m s) (advance (srcLength m) s)) := rfl

theorem exec_sta (m : MemMode) (s : State) : exec (.sta m) s = .next (storeByte m s.cpu.a s) := rfl

theorem exec_stx (m : MemMode) (s : State) : exec (.stx m) s = .next (storeByte m s.cpu.x s) := rfl

theorem exec_sty (m : MemMode) (s : State) : exec (.sty m) s = .next (storeByte m s.cpu.y s) := rfl

theorem exec_pha (s : State) : exec .pha s = .next (push s.cpu.a (advance 1 s)) := rfl

theorem exec_pla (s : State) : exec .pla s = .next (loadA (pullByte s) (afterPull (advance 1 s))) := rfl

/-- JSR pushes the address of its third byte (rule R325). -/
theorem exec_jsr (w : Word) (s : State) :
    exec (.jsr w) s = .next (setPc w (push16 (s.cpu.pc + 2) (advance 3 s))) := by
  have hthird : s.cpu.pc + BitVec.ofNat 16 3 - 1 = s.cpu.pc + 2 := by bv_omega
  rw [← hthird]
  rfl

theorem exec_rts (s : State) :
    exec .rts s = .next (setPc (pull16 s + 1) (afterPull (afterPull (advance 1 s)))) := rfl

/-! ## Loads and stores -/

/-- `loadA` past an instruction of `n` bytes touches A, the flags and `pc` only. -/
theorem loadA_advance_onlyCpu (v : Byte) (n : Nat) (s : State) :
    OnlyCpu s (loadA v (advance n s))
      { s.cpu with a := v, p := setNZ v s.cpu.p, pc := s.cpu.pc + BitVec.ofNat 16 n } :=
  .of_parts rfl rfl rfl rfl rfl

/-- `loadX` past an instruction of `n` bytes touches X, the flags and `pc` only. -/
theorem loadX_advance_onlyCpu (v : Byte) (n : Nat) (s : State) :
    OnlyCpu s (loadX v (advance n s))
      { s.cpu with x := v, p := setNZ v s.cpu.p, pc := s.cpu.pc + BitVec.ofNat 16 n } :=
  .of_parts rfl rfl rfl rfl rfl

/-- `loadY` past an instruction of `n` bytes touches Y, the flags and `pc` only. -/
theorem loadY_advance_onlyCpu (v : Byte) (n : Nat) (s : State) :
    OnlyCpu s (loadY v (advance n s))
      { s.cpu with y := v, p := setNZ v s.cpu.p, pc := s.cpu.pc + BitVec.ofNat 16 n } :=
  .of_parts rfl rfl rfl rfl rfl

/-- A store moves `pc` and makes its one bus write. -/
theorem storeByte_cpuAndStore (m : MemMode) (v : Byte) {s : State} (h : s.memoryOk) :
    CpuAndStore s (storeByte m v s) { s.cpu with pc := s.cpu.pc + BitVec.ofNat 16 (memLength m) } (effAddr m s) v :=
  ⟨memWrite_cpu _ _ _, (memWrite_stored (advance (memLength m) s) _ v h).congr rfl rfl rfl rfl, memWrite_ay _ _ _,
    memWrite_host _ _ _⟩

/-! ## Counting modulo 0x100 -/

theorem ofNat_toNat_add_one (r : Byte) : BitVec.ofNat 8 ((r.toNat + 1) % 0x100) = r + 1 := by
  bv_omega

/-- Adding 0xFF counts down by one. -/
theorem ofNat_toNat_add_0xFF (r : Byte) : BitVec.ofNat 8 ((r.toNat + 0xFF) % 0x100) = r - 1 := by
  bv_omega

/-! ## The stack -/

theorem stackAddr_eq_ofNat (sp : Byte) : stackAddr sp = BitVec.ofNat 16 (0x0100 + sp.toNat) := by
  rw [← stackAddr_toNat, BitVec.ofNat_toNat, BitVec.setWidth_eq]

/-- A push changes no byte but the one at the new `sp`. -/
theorem push_onlyStack (v : Byte) (s : State) : OnlyStack [s.cpu.sp - 1] s (push v s) :=
  ⟨fun a ha => memRead_push_other v s a (ha _ (List.mem_singleton_self _)), push_sameCartridge v s, push_apu v s,
    push_ay v s, push_host v s⟩

/-- The pushed byte is the one at the new `sp`. -/
theorem pullByte_push (v : Byte) {s : State} (h : s.memoryOk) : pullByte (push v s) = v := by
  rw [pullByte, push_cpu]
  exact memRead_push_same v s _ h ((sameRamByte_stackAddr _ _).2 rfl)

/-- A 16-bit pull gives what a 16-bit push left (rule R320). -/
theorem pull16_push16 (w : Word) {s : State} (h : s.memoryOk) : pull16 (push16 w s) = w := by
  obtain ⟨hcpu, hhigh, hlow, -, -⟩ := push16_after w s h
  have hsp : s.cpu.sp - 2 + 1 = s.cpu.sp - 1 := by bv_omega
  apply BitVec.eq_of_toNat_eq
  rw [pull16_toNat, hcpu, hsp, hhigh, hlow]
  exact Nat.mod_add_div _ _

@[simp] theorem pull16_setPc (target : Word) (s : State) : pull16 (setPc target s) = pull16 s := rfl

@[simp] theorem advance_memoryOk (n : Nat) (s : State) : (advance n s).memoryOk ↔ s.memoryOk := Iff.rfl

/-! ## The obligations -/

/-- Settles O15: `storeByte` for each of the three registers. -/
theorem storeResults : Obligations.StoreResults := by
  intro m s h c
  exact ⟨⟨_, exec_sta m s, storeByte_cpuAndStore m _ h⟩, ⟨_, exec_stx m s, storeByte_cpuAndStore m _ h⟩,
    ⟨_, exec_sty m s, storeByte_cpuAndStore m _ h⟩⟩

/-- Settles O26: the pulls undo the pushes by `pullByte_push` and `pull16_push16`, and `sp` goes down and up again. -/
theorem stackRoundTrips : Obligations.StackRoundTrips := by
  intro s w h
  constructor
  · have hsp : s.cpu.sp - 1 + 1 = s.cpu.sp := by bv_omega
    have hpc : s.cpu.pc + BitVec.ofNat 16 1 + BitVec.ofNat 16 1 = s.cpu.pc + 2 := by bv_omega
    have hpull : pullByte (push s.cpu.a (advance 1 s)) = s.cpu.a := pullByte_push _ ((advance_memoryOk 1 s).2 h)
    refine ⟨_, _, _, exec_pha s, exec_pla _, setNZ_after s.cpu.a s.cpu.p, ?_⟩
    simp only [hpull, loadA_cpu, afterPull_cpu, push_cpu, advance_cpu, hsp, hpc]
  · have hsp : s.cpu.sp - 2 + 1 + 1 = s.cpu.sp := by bv_omega
    have hpc : s.cpu.pc + 2 + 1 = s.cpu.pc + 3 := by bv_omega
    have hadvanced : (advance 3 s).memoryOk := (advance_memoryOk 3 s).2 h
    have hpull := pull16_push16 (s.cpu.pc + 2) hadvanced
    obtain ⟨hcpu, -⟩ := push16_after (s.cpu.pc + 2) (advance 3 s) hadvanced
    refine ⟨_, _, exec_jsr w s, exec_rts _, ?_⟩
    simp only [pull16_setPc, hpull, hcpu, setPc_cpu, afterPull_cpu, advance_cpu, hsp, hpc]

/-- Settles O14: the operand is loaded past the instruction, and the flags are `SetNZ`'s. -/
theorem loadResults : Obligations.LoadResults := by
  intro m s v next
  exact ⟨_, setNZ_after v s.cpu.p, ⟨_, exec_lda m s, loadA_advance_onlyCpu v _ s⟩,
    ⟨_, exec_ldx m s, loadX_advance_onlyCpu v _ s⟩, ⟨_, exec_ldy m s, loadY_advance_onlyCpu v _ s⟩⟩

/-- Settles O16: each of the eight is a load of a register's value, or of its neighbour, past one byte. -/
theorem registerSteps : Obligations.RegisterSteps := by
  intro s rest up down result
  have hup (r : Byte) : up r = r + 1 := ofNat_toNat_add_one r
  have hdown (r : Byte) : down r = r - 1 := ofNat_toNat_add_0xFF r
  simp only [hup, hdown]
  refine ⟨?tax, ?tay, ?txa, ?tya, ?inx, ?iny, ?dex, ?dey⟩
  case txa | tya => exact ⟨rfl, _, _, rfl, setNZ_after _ _, loadA_advance_onlyCpu _ 1 s⟩
  case tax | inx | dex => exact ⟨rfl, _, _, rfl, setNZ_after _ _, loadX_advance_onlyCpu _ 1 s⟩
  case tay | iny | dey => exact ⟨rfl, _, _, rfl, setNZ_after _ _, loadY_advance_onlyCpu _ 1 s⟩

/-- Settles O17: PHA is a push, and PLA a load of the pulled byte. -/
theorem pushPullResults : Obligations.PushPullResults := by
  intro s h
  simp only [← stackAddr_eq_ofNat]
  refine ⟨⟨_, exec_pha s, push_cpu _ _, ?_, push_onlyStack _ (advance 1 s)⟩,
    _, _, _, exec_pla s, rfl, setNZ_after _ _, .of_parts rfl rfl rfl rfl rfl⟩
  exact memRead_push_same _ (advance 1 s) _ h ((sameRamByte_stackAddr _ _).2 rfl)

end Sys2Proof.Machine
end

section
/-! SUPPORT and PROOF. Logic, compare, increment and decrement of memory, shifts and rotates: each meaning as one shared
operation on a result given as a number, the frame of that operation, and the flags of the compares and of BIT. -/

namespace Sys2Proof.Machine

/-! ## Bytes as numbers -/

/-- Adding a constant to a byte, as a sum of numbers. -/
theorem add_ofNat_eq_ofNat (v : Byte) (n : Nat) : v + BitVec.ofNat 8 n = BitVec.ofNat 8 (v.toNat + n) := by
  rw [BitVec.ofNat_add, BitVec.ofNat_toNat, BitVec.setWidth_eq]

/-- Bit 0 of a byte says that it is odd. -/
theorem getLsbD_zero (v : Byte) : v.getLsbD 0 = decide (v.toNat % 2 = 1) := Nat.testBit_zero _

theorem shiftLeft_one_eq_ofNat (v : Byte) : v <<< 1 = BitVec.ofNat 8 (2 * v.toNat) := by
  rw [← BitVec.twoPow_mul_eq_shiftLeft]
  bv_omega

theorem shiftRight_one_eq_ofNat (v : Byte) : v >>> 1 = BitVec.ofNat 8 (v.toNat / 2) := by
  apply BitVec.eq_of_toNat_eq
  rw [BitVec.toNat_ushiftRight, Nat.shiftRight_eq_div_pow, BitVec.toNat_ofNat]
  omega

/-- A carry enters the bit 0 that a shift to the left has emptied: it is added. -/
theorem shiftLeft_one_or_carry (v : Byte) {c : Nat} (hc : c ≤ 1) :
    v <<< 1 ||| BitVec.ofNat 8 c = BitVec.ofNat 8 (2 * v.toNat + c) := by
  have hor : 2 * v.toNat ||| c = 2 * v.toNat + c := (Nat.two_pow_add_eq_or_of_lt (i := 1) (by omega) _).symm
  rw [shiftLeft_one_eq_ofNat, ← BitVec.ofNat_or, hor]

/-- A carry enters the bit 7 that a shift to the right has emptied: 0x80 times it is added. -/
theorem shiftRight_one_or_carry (v : Byte) (c : Nat) :
    v >>> 1 ||| BitVec.ofNat 8 c <<< 7 = BitVec.ofNat 8 (v.toNat / 2 + 0x80 * c) := by
  have hv := v.isLt
  have hor : 0x80 * c ||| v.toNat / 2 = 0x80 * c + v.toNat / 2 :=
    (Nat.two_pow_add_eq_or_of_lt (i := 7) (by omega) _).symm
  have hcarry : BitVec.ofNat 8 c <<< 7 = BitVec.ofNat 8 (0x80 * c) := by
    rw [← BitVec.twoPow_mul_eq_shiftLeft, BitVec.ofNat_mul]
    rfl
  rw [shiftRight_one_eq_ofNat, hcarry, BitVec.or_comm, ← BitVec.ofNat_or, hor, Nat.add_comm]

/-! ## The meanings -/

theorem exec_and (m : Src) (s : State) :
    exec (.and m) s = .next (loadA (s.cpu.a &&& srcValue m s) (advance (srcLength m) s)) := rfl

theorem exec_ora (m : Src) (s : State) :
    exec (.ora m) s = .next (loadA (s.cpu.a ||| srcValue m s) (advance (srcLength m) s)) := rfl

theorem exec_eor (m : Src) (s : State) :
    exec (.eor m) s = .next (loadA (s.cpu.a ^^^ srcValue m s) (advance (srcLength m) s)) := rfl

theorem exec_bit (m : MemMode) (s : State) :
    exec (.bit m) s =
      .next (setP (bitFlags s.cpu.a (memRead s (effAddr m s)) s.cpu.p) (advance (memLength m) s)) := rfl

theorem exec_cmp (m : Src) (s : State) :
    exec (.cmp m) s = .next (setP (compareFlags s.cpu.a (srcValue m s) s.cpu.p) (advance (srcLength m) s)) := rfl

theorem exec_cpx (m : Src) (s : State) :
    exec (.cpx m) s = .next (setP (compareFlags s.cpu.x (srcValue m s) s.cpu.p) (advance (srcLength m) s)) := rfl

theorem exec_cpy (m : Src) (s : State) :
    exec (.cpy m) s = .next (setP (compareFlags s.cpu.y (srcValue m s) s.cpu.p) (advance (srcLength m) s)) := rfl

theorem exec_inc (m : MemMode) (s : State) : exec (.inc m) s = .next (addToMemory 1 m s) := rfl

theorem exec_dec (m : MemMode) (s : State) : exec (.dec m) s = .next (addToMemory 0xFF m s) := rfl

/-- ASL doubles its operand, and the carry is what no longer fits (rule R305). -/
theorem exec_asl (g : Tgt) (s : State) :
    exec (.asl g) s = .next (shiftTo g (BitVec.ofNat 8 (2 * (tgtValue g s).toNat))
      (decide (0x80 ≤ (tgtValue g s).toNat)) s) := by
  rw [← shiftLeft_one_eq_ofNat, ← getLsbD_seven]
  rfl

/-- LSR halves its operand, and the carry is the remainder (rule R306). -/
theorem exec_lsr (g : Tgt) (s : State) :
    exec (.lsr g) s = .next (shiftTo g (BitVec.ofNat 8 ((tgtValue g s).toNat / 2))
      (decide ((tgtValue g s).toNat % 2 = 1)) s) := by
  rw [← shiftRight_one_eq_ofNat, ← getLsbD_zero]
  rfl

/-- ROL doubles its operand and adds the old carry (rule R307). -/
theorem exec_rol (g : Tgt) (s : State) :
    exec (.rol g) s = .next (shiftTo g (BitVec.ofNat 8 (2 * (tgtValue g s).toNat + carryIn s.cpu.p))
      (decide (0x80 ≤ (tgtValue g s).toNat)) s) := by
  rw [← shiftLeft_one_or_carry _ (carryIn_le _), ← getLsbD_seven]
  rfl

/-- ROR halves its operand and puts the old carry on top (rule R308). -/
theorem exec_ror (g : Tgt) (s : State) :
    exec (.ror g) s = .next (shiftTo g (BitVec.ofNat 8 ((tgtValue g s).toNat / 2 + 0x80 * carryIn s.cpu.p))
      (decide ((tgtValue g s).toNat % 2 = 1)) s) := by
  rw [← shiftRight_one_or_carry, ← getLsbD_zero]
  rfl

/-! ## The frames -/

/-- `setP` past an instruction of `n` bytes touches the flags and `pc` only. -/
theorem setP_advance_onlyCpu (q : Byte) (n : Nat) (s : State) :
    OnlyCpu s (setP q (advance n s)) { s.cpu with p := q, pc := s.cpu.pc + BitVec.ofNat 16 n } :=
  .of_parts rfl rfl rfl rfl rfl

/-- Flags written after a bus write that follows an instruction of `n` bytes: the flags, `pc` and the one write. -/
theorem setP_memWrite_cpuAndStore (q : Byte) (n : Nat) (addr : Word) (v : Byte) {s : State} (h : s.memoryOk) :
    CpuAndStore s (setP q (memWrite (advance n s) addr v))
      { s.cpu with p := q, pc := s.cpu.pc + BitVec.ofNat 16 n } addr v := by
  have hstored : Stored addr v (advance n s) (memWrite (advance n s) addr v) := memWrite_stored _ addr v h
  exact ⟨by simp, hstored.congr rfl rfl rfl rfl, by simp, by simp⟩

/-- A counted byte in memory: the flags, `pc` and the one write. -/
theorem addToMemory_cpuAndStore (delta : Byte) (m : MemMode) {s : State} (h : s.memoryOk) :
    CpuAndStore s (addToMemory delta m s)
      { s.cpu with
        p := setNZ (memRead s (effAddr m s) + delta) s.cpu.p, pc := s.cpu.pc + BitVec.ofNat 16 (memLength m) }
      (effAddr m s) (memRead s (effAddr m s) + delta) :=
  setP_memWrite_cpuAndStore _ _ _ _ h

/-- A shift of A touches A, the flags and `pc` only. -/
theorem shiftTo_acc_onlyCpu (v : Byte) (c : Bool) (s : State) :
    OnlyCpu s (shiftTo .acc v c s)
      { s.cpu with a := v, p := setCNZ c v s.cpu.p, pc := s.cpu.pc + BitVec.ofNat 16 (tgtLength .acc) } :=
  .of_parts rfl rfl rfl rfl rfl

/-- A shift of a byte in memory: the flags, `pc` and the one write, at the address the operand was read from. -/
theorem shiftTo_mem_cpuAndStore (m : MemMode) (v : Byte) (c : Bool) {s : State} (h : s.memoryOk) :
    CpuAndStore s (shiftTo (.mem m) v c s)
      { s.cpu with p := setCNZ c v s.cpu.p, pc := s.cpu.pc + BitVec.ofNat 16 (tgtLength (.mem m)) }
      (effAddr m s) v := by
  rw [shiftTo, writeBack, effAddr_advance]
  exact setP_memWrite_cpuAndStore _ _ _ _ h

/-! ## The flags of the compares and of BIT -/

theorem getFlag_compareFlags_C (r v p : Byte) :
    getFlag (compareFlags r v p) .C = decide (v.toNat ≤ r.toNat) := by
  simp [compareFlags]

theorem getFlag_compareFlags_Z (r v p : Byte) : getFlag (compareFlags r v p) .Z = decide (r = v) := by
  simp [compareFlags, beq_eq_decide]

/-- N of a compare is bit 7 of the difference modulo 0x100. -/
theorem getFlag_compareFlags_N (r v p : Byte) :
    getFlag (compareFlags r v p) .N = decide (0x80 ≤ (r.toNat + 0x100 - v.toNat) % 0x100) := by
  have hv := v.isLt
  have hdiff : (r - v).toNat = (r.toNat + 0x100 - v.toNat) % 0x100 := by
    rw [BitVec.toNat_sub]
    omega
  rw [compareFlags, getFlag_setFlag_same, getLsbD_seven, hdiff]

/-- Z of BIT says that A and the operand have no bit in common. -/
theorem getFlag_bitFlags_Z_iff (a v p : Byte) :
    getFlag (bitFlags a v p) .Z = true ↔ ∀ k < 8, (a.getLsbD k && v.getLsbD k) = false := by
  have hZ : getFlag (bitFlags a v p) .Z = (a &&& v == 0) := by simp [bitFlags]
  rw [hZ, beq_iff_eq]
  constructor
  · intro hzero k _
    rw [← BitVec.getLsbD_and, hzero]
    exact BitVec.getLsbD_zero
  · intro hbits
    apply BitVec.eq_of_getLsbD_eq
    intro k hk
    rw [BitVec.getLsbD_and, hbits k hk]
    exact BitVec.getLsbD_zero.symm

theorem getFlag_bitFlags_N (a v p : Byte) : getFlag (bitFlags a v p) .N = v.getLsbD 7 := by
  simp [bitFlags]

theorem getFlag_bitFlags_V (a v p : Byte) : getFlag (bitFlags a v p) .V = v.getLsbD 6 := by
  simp [bitFlags]

/-! ## The obligations -/

/-- Settles O23: each of the four is a `shiftTo`, whose frame goes by where the operand is. -/
theorem shiftResults : Obligations.ShiftResults := by
  intro g s h v c next result
  have hresult {i : Instr} {r : Nat} {out : Bool}
      (hexec : exec i s = .next (shiftTo g (BitVec.ofNat 8 r) out s)) : result i r out := by
    refine ⟨_, _, hexec, setCNZ_after _ _ _, ?_⟩
    cases g with
    | acc => exact shiftTo_acc_onlyCpu _ _ s
    | mem m => exact shiftTo_mem_cpuAndStore m _ _ h
  exact ⟨hresult (exec_asl g s), hresult (exec_lsr g s), hresult (exec_rol g s), hresult (exec_ror g s)⟩

/-- Settles O22: both are `addToMemory`, and counting down is adding 0xFF. -/
theorem incDecMemory : Obligations.IncDecMemory := by
  intro m s h v result
  have hinc : v + 1 = BitVec.ofNat 8 (v.toNat + 1) := add_ofNat_eq_ofNat v 1
  have hdec : v + 0xFF = BitVec.ofNat 8 (v.toNat + 0xFF) := add_ofNat_eq_ofNat v 0xFF
  rw [← hinc, ← hdec]
  exact ⟨⟨_, _, exec_inc m s, setNZ_after _ _, addToMemory_cpuAndStore 1 m h⟩,
    _, _, exec_dec m s, setNZ_after _ _, addToMemory_cpuAndStore 0xFF m h⟩

/-- Settles O21: all four write the flags alone, and each flag is read off `bitFlags` or `compareFlags`. -/
theorem testResults : Obligations.TestResults := by
  constructor
  · intro m s v
    exact ⟨_, _, exec_bit m s, setP_advance_onlyCpu _ _ s, getFlag_bitFlags_Z_iff _ v _, getFlag_bitFlags_N _ v _,
      getFlag_bitFlags_V _ v _, bitFlags_same _ v _⟩
  · intro m s v result
    have hresult {i : Instr} {r : Byte}
        (hexec : exec i s = .next (setP (compareFlags r v s.cpu.p) (advance (srcLength m) s))) : result i r :=
      ⟨_, _, hexec, setP_advance_onlyCpu _ _ s, getFlag_compareFlags_C r v _, getFlag_compareFlags_Z r v _,
        getFlag_compareFlags_N r v _, compareFlags_same r v _⟩
    exact ⟨hresult (exec_cmp m s), hresult (exec_cpx m s), hresult (exec_cpy m s)⟩

/-- Settles O20: each of the three is a load of the combined byte into A. -/
theorem logicResults : Obligations.LogicResults := by
  intro m s v result
  exact ⟨⟨_, _, _, exec_and m s, fun _ _ => BitVec.getLsbD_and, setNZ_after _ _, loadA_advance_onlyCpu _ _ s⟩,
    ⟨_, _, _, exec_ora m s, fun _ _ => BitVec.getLsbD_or, setNZ_after _ _, loadA_advance_onlyCpu _ _ s⟩,
    _, _, _, exec_eor m s, fun _ _ => BitVec.getLsbD_xor, setNZ_after _ _, loadA_advance_onlyCpu _ _ s⟩

end Sys2Proof.Machine
end

section
/-! SUPPORT and PROOF. Jumps, subroutines, BRK, branches, the flag instructions and NOP: each meaning as one shared
operation past its bytes, and the frames of `setPc`, of a 16-bit push and of the software trap. -/

namespace Sys2Proof.Machine

/-! ## The meanings -/

theorem exec_jmp (j : JumpMode) (s : State) : exec (.jmp j) s = .next (setPc (jumpTarget j s) (advance 3 s)) := rfl

theorem exec_bcc (d : Byte) (s : State) : exec (.bcc d) s = .next (branchIf (!getFlag s.cpu.p .C) d s) := rfl

theorem exec_bcs (d : Byte) (s : State) : exec (.bcs d) s = .next (branchIf (getFlag s.cpu.p .C) d s) := rfl

theorem exec_bne (d : Byte) (s : State) : exec (.bne d) s = .next (branchIf (!getFlag s.cpu.p .Z) d s) := rfl

theorem exec_beq (d : Byte) (s : State) : exec (.beq d) s = .next (branchIf (getFlag s.cpu.p .Z) d s) := rfl

theorem exec_bpl (d : Byte) (s : State) : exec (.bpl d) s = .next (branchIf (!getFlag s.cpu.p .N) d s) := rfl

theorem exec_bmi (d : Byte) (s : State) : exec (.bmi d) s = .next (branchIf (getFlag s.cpu.p .N) d s) := rfl

theorem exec_clc (s : State) : exec .clc s = .next (setP (setFlag s.cpu.p .C false) (advance 1 s)) := rfl

theorem exec_sec (s : State) : exec .sec s = .next (setP (setFlag s.cpu.p .C true) (advance 1 s)) := rfl

theorem exec_nop (s : State) : exec .nop s = .next (advance 1 s) := rfl

/-! ## Frames of the moves of `pc` -/

theorem advance_onlyCpu (n : Nat) (s : State) :
    OnlyCpu s (advance n s) { s.cpu with pc := s.cpu.pc + BitVec.ofNat 16 n } :=
  .of_parts rfl rfl rfl rfl rfl

/-- A jump past an instruction of `n` bytes touches `pc` only. -/
theorem setPc_advance_onlyCpu (target : Word) (n : Nat) (s : State) :
    OnlyCpu s (setPc target (advance n s)) { s.cpu with pc := target } :=
  .of_parts rfl rfl rfl rfl rfl

/-- The branch target as a signed sum modulo 0x10000 (rule R126). -/
theorem add_relAddr_eq_ofInt (pc : Word) (d : Byte) :
    pc + BitVec.ofNat 16 2 + relAddr d = BitVec.ofInt 16 ((pc.toNat : Int) + 2 + d.toInt) := by
  have hpc : BitVec.ofInt 16 (pc.toNat : Int) = pc := by
    rw [BitVec.ofInt_natCast, BitVec.ofNat_toNat, BitVec.setWidth_eq]
  rw [BitVec.ofInt_add, BitVec.ofInt_add, hpc]
  rfl

/-- A branch touches `pc` only, whether it is taken or not. -/
theorem branchIf_onlyCpu (taken : Bool) (d : Byte) (s : State) :
    OnlyCpu s (branchIf taken d s) { s.cpu with
      pc := BitVec.ofInt 16 ((s.cpu.pc.toNat : Int) + 2 + if taken then d.toInt else 0) } := by
  cases taken with
  | true =>
    rw [if_pos rfl, ← add_relAddr_eq_ofInt]
    exact setPc_advance_onlyCpu _ 2 s
  | false =>
    have hpast : s.cpu.pc + BitVec.ofNat 16 2 = BitVec.ofInt 16 ((s.cpu.pc.toNat : Int) + 2 + 0) := by
      rw [add_zero, BitVec.ofInt_add, BitVec.ofInt_natCast, BitVec.ofNat_toNat, BitVec.setWidth_eq]
      rfl
    rw [if_neg Bool.false_ne_true, ← hpast]
    exact advance_onlyCpu 2 s

/-- The low byte is at the address, the high byte at the next one modulo 0x10000 (rule R90). -/
theorem memRead16_toNat (s : State) (addr : Word) :
    (memRead16 s addr).toNat =
      (memRead s addr).toNat + 0x100 * (memRead s (BitVec.ofNat 16 ((addr.toNat + 1) % 0x10000))).toNat := by
  have hnext : BitVec.ofNat 16 ((addr.toNat + 1) % 0x10000) = addr + 1 := by bv_omega
  rw [hnext]
  exact wordOf_toNat _ _

/-! ## Frames of the stack operations -/

@[simp] theorem onlyStack_advance (sps : List Byte) (n : Nat) (s t : State) :
    OnlyStack sps (advance n s) t ↔ OnlyStack sps s t := Iff.rfl

@[simp] theorem onlyStack_setPc (sps : List Byte) (target : Word) (s t : State) :
    OnlyStack sps s (setPc target t) ↔ OnlyStack sps s t := Iff.rfl

@[simp] theorem onlyStack_setP (sps : List Byte) (p : Byte) (s t : State) :
    OnlyStack sps s (setP p t) ↔ OnlyStack sps s t := Iff.rfl

/-- Two pushes after one another. -/
theorem OnlyStack.append {xs ys : List Byte} {s t u : State} (h : OnlyStack xs s t) (h' : OnlyStack ys t u) :
    OnlyStack (xs ++ ys) s u := by
  obtain ⟨hmem, hcart, hapu, hay, hhost⟩ := h
  obtain ⟨hmem', hcart', hapu', hay', hhost'⟩ := h'
  refine ⟨fun a ha => ?_, hcart.trans hcart', hapu'.trans hapu, hay'.trans hay, hhost'.trans hhost⟩
  have hxs : ∀ sp ∈ xs, ¬ SameRamByte a (stackAddr sp) := fun sp hsp => ha sp (List.mem_append_left ys hsp)
  have hys : ∀ sp ∈ ys, ¬ SameRamByte a (stackAddr sp) := fun sp hsp => ha sp (List.mem_append_right xs hsp)
  rw [hmem' a hys, hmem a hxs]

/-- The stack is RAM: no address above the mirrors of RAM changes. -/
theorem OnlyStack.memRead_of_not_ram {sps : List Byte} {s t : State} (h : OnlyStack sps s t) {a : Word}
    (ha : 0x2000 ≤ a.toNat) : memRead t a = memRead s a :=
  h.1 a fun _ _ hsame => Nat.not_le_of_lt ha hsame.1

/-- A stack byte that no push wrote. -/
theorem OnlyStack.memRead_stackAddr {sps : List Byte} {s t : State} (h : OnlyStack sps s t) {sp : Byte}
    (hsp : sp ∉ sps) : memRead t (stackAddr sp) = memRead s (stackAddr sp) :=
  h.1 _ fun sp' hsp' hsame => hsp ((sameRamByte_stackAddr sp sp').1 hsame ▸ hsp')

/-! ## The software trap -/

/-- The copy of `p` that the trap pushes has B and U set (rule R328). -/
theorem getFlag_or_0x30 (p : Byte) (f : Flag) : getFlag (p ||| 0x30) f = (f == .B || f == .U || getFlag p f) := by
  have hcopied : getFlag (p ||| 0x30) f = (getFlag p f || getFlag 0x30 f) := BitVec.getLsbD_or
  have hset : getFlag 0x30 f = (f == .B || f == .U) := by cases f <;> decide
  rw [hcopied, hset, Bool.or_comm]

/-- What a trap pushes: the return address, and below it the copy of `p` (rule R328). -/
def trapPushes (r : Word) (s : State) : State := push (s.cpu.p ||| 0x30) (push16 r s)

/-- A trap pushes, sets I and jumps through its vector. -/
theorem takeTrap_eq (r vector : Word) (s : State) :
    takeTrap r vector s =
      setPc (memRead16 (trapPushes r s) vector) (setP (setFlag s.cpu.p .I true) (trapPushes r s)) := by
  simp only [takeTrap, trapPushes, push16, push_cpu, memRead16, memRead_setP]

/-- Everything the pushes of a trap do. -/
theorem trapPushes_after (r : Word) {s : State} (h : s.memoryOk) :
    (trapPushes r s).cpu = { s.cpu with sp := s.cpu.sp - 3 } ∧
      (memRead (trapPushes r s) (stackAddr (s.cpu.sp - 1))).toNat = r.toNat / 0x100 ∧
      (memRead (trapPushes r s) (stackAddr (s.cpu.sp - 2))).toNat = r.toNat % 0x100 ∧
      memRead (trapPushes r s) (stackAddr (s.cpu.sp - 3)) = s.cpu.p ||| 0x30 ∧
      OnlyStack [s.cpu.sp - 1, s.cpu.sp - 2, s.cpu.sp - 3] s (trapPushes r s) := by
  obtain ⟨hcpu, hhigh, hlow, hstack, hok⟩ := push16_after r s h
  have hthird : (push16 r s).cpu.sp - 1 = s.cpu.sp - 3 := by rw [hcpu]; bv_omega
  have hpush : OnlyStack [s.cpu.sp - 3] (push16 r s) (trapPushes r s) := by
    rw [← hthird]
    exact push_onlyStack _ _
  have hfirst : s.cpu.sp - 1 ∉ [s.cpu.sp - 3] := by rw [List.mem_singleton]; bv_omega
  have hsecond : s.cpu.sp - 2 ∉ [s.cpu.sp - 3] := by rw [List.mem_singleton]; bv_omega
  refine ⟨?_, ?_, ?_, ?_, hstack.append hpush⟩
  · rw [trapPushes, push_cpu, hthird, hcpu]
  · rw [hpush.memRead_stackAddr hfirst, hhigh]
  · rw [hpush.memRead_stackAddr hsecond, hlow]
  · exact memRead_push_same _ _ _ hok ((sameRamByte_stackAddr _ _).2 hthird.symm)

/-- The trap's registers: its pushes leave a vector outside RAM as it was. -/
theorem takeTrap_cpu (r : Word) {vector : Word} {s : State} (h : s.memoryOk) (hlow : 0x2000 ≤ vector.toNat)
    (hhigh : 0x2000 ≤ (vector + 1).toNat) :
    (takeTrap r vector s).cpu =
      { s.cpu with sp := s.cpu.sp - 3, p := setFlag s.cpu.p .I true, pc := memRead16 s vector } := by
  obtain ⟨hcpu, -, -, -, hstack⟩ := trapPushes_after r h
  have hvector : memRead16 (trapPushes r s) vector = memRead16 s vector := by
    rw [memRead16, hstack.memRead_of_not_ram hlow, hstack.memRead_of_not_ram hhigh, memRead16]
  rw [takeTrap_eq, hvector, setPc_cpu, setP_cpu, hcpu]

/-- The trap's memory is that of its pushes. -/
theorem takeTrap_stack (r vector : Word) {s : State} (h : s.memoryOk) :
    (memRead (takeTrap r vector s) (stackAddr (s.cpu.sp - 1))).toNat = r.toNat / 0x100 ∧
      (memRead (takeTrap r vector s) (stackAddr (s.cpu.sp - 2))).toNat = r.toNat % 0x100 ∧
      memRead (takeTrap r vector s) (stackAddr (s.cpu.sp - 3)) = s.cpu.p ||| 0x30 ∧
      OnlyStack [s.cpu.sp - 1, s.cpu.sp - 2, s.cpu.sp - 3] s (takeTrap r vector s) := by
  simp only [takeTrap_eq, memRead_setPc, memRead_setP, onlyStack_setPc, onlyStack_setP]
  exact (trapPushes_after r h).2

/-! ## The obligations -/

/-- Settles O25: JSR is a 16-bit push past its three bytes and a jump, RTS two pulls and a jump. -/
theorem subroutineResults : Obligations.SubroutineResults := by
  constructor
  · intro s w h r
    obtain ⟨hcpu, hhigh, hlow, hstack, -⟩ := push16_after r (advance 3 s) ((advance_memoryOk 3 s).2 h)
    refine ⟨_, exec_jsr w s, ?_, ?_⟩
    · rw [setPc_cpu, hcpu, advance_cpu]
    · simp only [memRead_setPc, onlyStack_setPc]
      exact ⟨hhigh, hlow, (onlyStack_advance _ 3 s _).1 hstack⟩
  · intro s
    have hsp : s.cpu.sp + 1 + 1 = s.cpu.sp + 2 := by bv_omega
    refine ⟨_, pull16 s + 1, exec_rts s, .of_parts ?_ rfl rfl rfl rfl, ?_⟩
    · simp only [setPc_cpu, afterPull_cpu, advance_cpu, hsp]
    · rw [BitVec.toNat_add, pull16_toNat]
      rfl

/-- Settles O27: BRK is the trap past its padding byte; its vector 0xFFFE is outside RAM. -/
theorem brkTrap : Obligations.BrkTrap := by
  intro s h r
  have hadvanced : (advance 2 s).memoryOk := (advance_memoryOk 2 s).2 h
  have hcpu := takeTrap_cpu r (vector := 0xFFFE) hadvanced (by decide) (by decide)
  obtain ⟨hhigh, hlow, hcopy, hstack⟩ := takeTrap_stack r 0xFFFE hadvanced
  refine ⟨takeTrap r 0xFFFE (advance 2 s), setFlag s.cpu.p .I true, memRead16 s 0xFFFE, exec_brk s, hcpu,
    getFlag_setFlag_same _ _ _, (SameFlagsBut.refl _ _).setFlag (by decide) true, memRead16_toNat s 0xFFFE, hhigh, hlow,
    fun f => ?_, (onlyStack_advance _ 2 s _).1 hstack⟩
  exact (congrArg (getFlag · f) hcopy).trans (getFlag_or_0x30 s.cpu.p f)

/-- Settles O28: each of the six is a `branchIf` on its flag. -/
theorem branchResults : Obligations.BranchResults := by
  intro s d rest branch
  exact ⟨⟨rfl, _, exec_bcc d s, branchIf_onlyCpu _ d s⟩, ⟨rfl, _, exec_bcs d s, branchIf_onlyCpu _ d s⟩,
    ⟨rfl, _, exec_bne d s, branchIf_onlyCpu _ d s⟩, ⟨rfl, _, exec_beq d s, branchIf_onlyCpu _ d s⟩,
    ⟨rfl, _, exec_bpl d s, branchIf_onlyCpu _ d s⟩, rfl, _, exec_bmi d s, branchIf_onlyCpu _ d s⟩

/-- Settles O24: both forms jump past three bytes, and the indirect target is the 16-bit read at the pointer. -/
theorem jmpResult : Obligations.JmpResult := by
  intro s lo hi rest w
  exact ⟨⟨rfl, _, exec_jmp (.abs w) s, setPc_advance_onlyCpu _ 3 s⟩, rfl, _, _, exec_jmp (.ind w) s,
    setPc_advance_onlyCpu _ 3 s, memRead16_toNat s w⟩

/-- Settles O29: each of the three goes past one byte, CLC and SEC with C set in the flags. -/
theorem flagInstructions : Obligations.FlagInstructions := by
  intro s rest next
  have honlyC (b : Bool) : SameFlagsBut [.C] s.cpu.p (setFlag s.cpu.p .C b) :=
    (SameFlagsBut.refl _ _).setFlag (by decide) b
  exact ⟨⟨_, _, rfl, exec_clc s, setP_advance_onlyCpu _ 1 s, getFlag_setFlag_same _ _ _, honlyC false⟩,
    ⟨_, _, rfl, exec_sec s, setP_advance_onlyCpu _ 1 s, getFlag_setFlag_same _ _ _, honlyC true⟩,
    _, rfl, exec_nop s, advance_onlyCpu 1 s⟩

end Sys2Proof.Machine
end

section
/-! SUPPORT and PROOF. `call` and `resume`: how a run begins, the three ways it ends without an instruction, the NSF
sequences as queues, and the run of a single RTS. -/

namespace Sys2Proof.Machine

/-! ## The end of a run -/

/-- A run out of budget returns 0 (rule R344). -/
theorem step_outOfBudget {s : State} {r : Run} (hrun : s.host.run = some r) (hbudget : r.budget = some 0) :
    step s = .next { s with host := s.host.afterRun r.purpose 0 } := by
  rw [step_run hrun, runStep, if_pos hbudget, finishRun_afterRun]

/-- A run at its stop marker returns 1 (rule R344). -/
theorem step_atStopMarker {s : State} {r : Run} (hrun : s.host.run = some r) (hbudget : r.budget ≠ some 0)
    (hsp : s.cpu.sp = s.cpu.stopSp) : step s = .next { s with host := s.host.afterRun r.purpose 1 } := by
  rw [step_run hrun, runStep, if_neg hbudget, if_pos hsp, finishRun_afterRun]

/-- A run at an undefined opcode byte returns -1 (rules R344, R380). -/
theorem step_run_of_undefined {s : State} {r : Run} (hop : memRead s s.cpu.pc ∈ undefinedOpcodes)
    (hrun : s.host.run = some r) (hbudget : r.budget ≠ some 0) (hsp : s.cpu.sp ≠ s.cpu.stopSp) :
    step s = .next { s with host := s.host.afterRun r.purpose (-1) } := by
  rw [step_run hrun, runStep, if_neg hbudget, if_neg hsp, cpuStep_of_undefined hop]
  exact congrArg _ (finishRun_afterRun (-1) r s)

/-- A queued `step()` at an undefined opcode byte shows the host `CpuError` (rules R340, R380). -/
theorem step_cpuStep_of_undefined {s : State} {rest : List HostOp} (hop : memRead s s.cpu.pc ∈ undefinedOpcodes)
    (h : s.performing .cpuStep rest) :
    step s = .next { s with host := { s.host with
      queue := rest
      results := .stepError s.cpu.pc :: s.host.results } } := by
  have hfault : cpuStep (s.withQueue rest) = .fault (.cpuError s.cpu.pc) := cpuStep_of_undefined hop
  rw [step_op h, performOp, hfault]
  rfl

/-! ## The beginning of a run -/

theorem step_call {s : State} {addr : Word} {n : Option Nat} {p : RunPurpose} {rest : List HostOp}
    (h : s.performing (.call addr n p) rest) :
    step s = .next (startRun n p (enterCall addr (s.withQueue rest))) := by
  rw [step_op h, performOp]

theorem step_resume {s : State} {n : Option Nat} {rest : List HostOp} (h : s.performing (.resume n) rest) :
    step s = .next (startRun n .plain (s.withQueue rest)) := by
  rw [step_op h, performOp]

@[simp] theorem memRead_startRun (n : Option Nat) (p : RunPurpose) (s : State) (a : Word) :
    memRead (startRun n p s) a = memRead s a := rfl

@[simp] theorem pull16_startRun (n : Option Nat) (p : RunPurpose) (s : State) :
    pull16 (startRun n p s) = pull16 s := rfl

/-- The stop marker is saved first (rule R343). -/
def saveSp (s : State) : State := { s with cpu := { s.cpu with stopSp := s.cpu.sp } }

theorem enterCall_eq (addr : Word) (s : State) :
    enterCall addr s = setPc addr (push16 (s.cpu.pc - 1) (saveSp s)) := rfl

@[simp] theorem onlyStack_saveSp (sps : List Byte) (s t : State) :
    OnlyStack sps (saveSp s) t ↔ OnlyStack sps s t := Iff.rfl

@[simp] theorem saveSp_memoryOk (s : State) : (saveSp s).memoryOk ↔ s.memoryOk := Iff.rfl

/-- Everything `call` does before it runs: a JSR's push of `pc - 1`, the jump, and the stop marker. -/
theorem enterCall_after (addr : Word) {s : State} (h : s.memoryOk) :
    (enterCall addr s).cpu = { s.cpu with sp := s.cpu.sp - 2, pc := addr, stopSp := s.cpu.sp } ∧
      (memRead (enterCall addr s) (stackAddr (s.cpu.sp - 1))).toNat = (s.cpu.pc - 1).toNat / 0x100 ∧
      (memRead (enterCall addr s) (stackAddr (s.cpu.sp - 2))).toNat = (s.cpu.pc - 1).toNat % 0x100 ∧
      OnlyStack [s.cpu.sp - 1, s.cpu.sp - 2] s (enterCall addr s) := by
  obtain ⟨hcpu, hhigh, hlow, hstack, -⟩ := push16_after (s.cpu.pc - 1) (saveSp s) ((saveSp_memoryOk s).2 h)
  simp only [enterCall_eq, setPc_cpu, memRead_setPc, onlyStack_setPc, hcpu]
  exact ⟨rfl, hhigh, hlow, (onlyStack_saveSp _ s _).1 hstack⟩

/-- The return address waits on the stack (rule R343). -/
theorem pull16_enterCall (addr : Word) {s : State} (h : s.memoryOk) : pull16 (enterCall addr s) = s.cpu.pc - 1 := by
  rw [enterCall_eq, pull16_setPc, pull16_push16 _ ((saveSp_memoryOk s).2 h)]

/-! ## The NSF sequences -/

/-- The boot writes the bank registers unless all eight values are 0 (rule R361). -/
theorem nsfBankWrites_eq (banks : Vector Byte 8) :
    (if banks.toList.all (· == 0) then []
      else banks.toList.zipIdx.map fun vi => HostOp.busWrite (BitVec.ofNat 16 (0x5FF8 + vi.2)) vi.1) =
    if ∀ i : Fin 8, banks[i] = 0 then []
      else (List.finRange 8).map fun i => .busWrite (BitVec.ofNat 16 (0x5FF8 + i.val)) banks[i] := by
  have hzero : banks.toList.all (· == 0) = true ↔ ∀ i : Fin 8, banks[i] = 0 := by
    simp [Fin.forall_iff]
  have hwrites : (banks.toList.zipIdx.map fun vi => HostOp.busWrite (BitVec.ofNat 16 (0x5FF8 + vi.2)) vi.1) =
      (List.finRange 8).map fun i => .busWrite (BitVec.ofNat 16 (0x5FF8 + i.val)) banks[i] := by
    apply List.ext_getElem <;> simp
  simp only [hzero, hwrites]

/-! ## A routine that is a single RTS -/

/-- RTS is opcode 0x60 (rule R326). -/
theorem cpuStep_rts {s : State} (h : memRead s s.cpu.pc = 0x60) : cpuStep s = exec .rts s := by
  apply cpuStep_of_decode
  rw [fetchBytes, h]
  rfl

/-- The first instruction of a call of an RTS in ROM: the registers are as before the call. -/
theorem cpuStep_enterCall_rts (n : Option Nat) (p : RunPurpose) {s : State} {addr : Word} (hok : s.memoryOk)
    (hrom : 0x8000 ≤ addr.toNat) (hrts : memRead s addr = 0x60) :
    ∃ u, cpuStep (startRun n p (enterCall addr s)) = .next u ∧ u.cpu = { s.cpu with stopSp := s.cpu.sp } ∧
      u.host = { s.host with run := some { budget := n, purpose := p } } := by
  obtain ⟨hcpu, -, -, hstack⟩ := enterCall_after addr hok
  have hop : memRead (startRun n p (enterCall addr s)) (startRun n p (enterCall addr s)).cpu.pc = 0x60 := by
    have hkept : memRead (enterCall addr s) addr = memRead s addr := hstack.memRead_of_not_ram (by omega)
    simp only [memRead_startRun, startRun_cpu, hcpu, hkept, hrts]
  have hsp : s.cpu.sp - 2 + 1 + 1 = s.cpu.sp := by bv_omega
  have hpc : s.cpu.pc - 1 + 1 = s.cpu.pc := by bv_omega
  obtain ⟨-, -, -, -, hhost⟩ := hstack
  refine ⟨_, (cpuStep_rts hop).trans (exec_rts _), ?_, ?_⟩
  · simp only [setPc_cpu, afterPull_cpu, advance_cpu, startRun_cpu, pull16_startRun, pull16_enterCall addr hok, hcpu,
      hsp, hpc]
  · simp only [setPc_host, afterPull_host, advance_host, startRun_host, hhost]

/-- A call of an RTS in ROM: its one instruction costs one unit of the budget. -/
theorem step_call_rts {s : State} {addr : Word} {n : Nat} {p : RunPurpose} {rest : List HostOp} (hok : s.memoryOk)
    (hrom : 0x8000 ≤ addr.toNat) (hrts : memRead s addr = 0x60) (h : s.performing (.call addr (some (n + 1)) p) rest) :
    ∃ t u, step s = .next t ∧ step t = .next u ∧ u.cpu = { s.cpu with stopSp := s.cpu.sp } ∧
      u.host = { s.host with queue := rest, run := some { budget := some n, purpose := p } } := by
  have hcall := step_call h
  obtain ⟨hcpu, -⟩ := enterCall_after addr (s := s.withQueue rest) hok
  obtain ⟨u, hu, hucpu, huhost⟩ := cpuStep_enterCall_rts (some (n + 1)) p (s := s.withQueue rest) hok hrom hrts
  generalize enterCall addr (s.withQueue rest) = e at hcall hcpu hu
  have hbelow : s.cpu.sp - 2 ≠ s.cpu.sp := by bv_omega
  have hsp : (startRun (some (n + 1)) p e).cpu.sp ≠ (startRun (some (n + 1)) p e).cpu.stopSp := by
    rw [startRun_cpu, hcpu]
    exact hbelow
  refine ⟨_, _, hcall, (step_run rfl).trans (runStep_of_cpuStep (by simp) hsp hu), hucpu, ?_⟩
  rw [huhost]
  rfl

/-! ## The obligations -/

/-- Settles O55: the call by `enterCall_after`, the two ends by the order of the tests in `runStep`, boot and PLAY as
queues. -/
theorem callAndReturn : Obligations.CallAndReturn := by
  refine ⟨?call, ?ends, ?boot, ?play⟩
  case call =>
    intro s addr n p rest hok h r
    have hentered := enterCall_after addr (s := s.withQueue rest) hok
    have hstep := step_call h
    generalize enterCall addr (s.withQueue rest) = u at hentered hstep
    obtain ⟨hcpu, hhigh, hlow, hmem, hcart, hapu, hay, hhost⟩ := hentered
    refine ⟨_, hstep, hcpu, hhigh, hlow, fun a hfirst hsecond => hmem a fun sp hsp => ?_, hcart, hapu, hay, ?_⟩
    · obtain rfl | hsp := List.mem_cons.1 hsp
      · exact hfirst
      · rwa [List.mem_singleton.1 hsp]
    · rw [startRun_host, hhost]
      rfl
  case ends =>
    exact fun s r hrun => ⟨step_outOfBudget hrun, step_atStopMarker hrun⟩
  case boot =>
    intro s h track rest hboot zero
    rw [step_op hboot, performOp, ← nsfBankWrites_eq]
    simp only [nsfBootOps, zero, zero_add]
    rfl
  case play =>
    intro s h rest hplay
    rw [step_op hplay]
    rfl

/-- Settles O56: the RTS runs by `step_call_rts`; then the run is at its stop marker, or first out of budget. -/
theorem singleRtsCall : Obligations.SingleRtsCall := by
  intro s addr hok hrom hrts done
  constructor
  · intro h
    obtain ⟨t, u, ht, hu, hcpu, hhost⟩ := step_call_rts hok hrom hrts h
    have hrun : u.host.run = some { budget := some 1, purpose := .plain } := by rw [hhost]
    refine ⟨t, u, _, ht, hu, step_atStopMarker hrun (by simp) (by rw [hcpu]), hcpu, ?_⟩
    rw [hhost]
    rfl
  · intro h
    obtain ⟨t, u, ht, hu, hcpu, hhost⟩ := step_call_rts hok hrom hrts h
    have hrun : u.host.run = some { budget := some 0, purpose := .plain } := by rw [hhost]
    have hv := step_outOfBudget hrun rfl
    rw [hhost] at hv
    refine ⟨t, u, _, _, _, ht, hu, hv, step_resume ⟨rfl, rfl⟩, step_atStopMarker rfl (by simp) ?_, hcpu, rfl⟩
    exact (congrArg Cpu.sp hcpu).trans (congrArg Cpu.stopSp hcpu).symm

/-- Settles O7: an undefined opcode byte faults the CPU's step, and who asked for the step sees it. -/
theorem cpuErrorIsPrecise : Obligations.CpuErrorIsPrecise :=
  fun _ hop => ⟨fun _ h => step_cpuStep_of_undefined hop h,
    fun _ hrun hbudget hsp => step_run_of_undefined hop hrun hbudget hsp⟩

end Sys2Proof.Machine
end

section
/-! SUPPORT and PROOF. The host's register writes: the register numbers the AY drops, and the two VGM commands as the
register writes they stand for. -/

namespace Sys2Proof.Machine

/-! ## Register numbers above 15 -/

/-- `AyRead` gives 0 where there is no register (rule R160). -/
theorem ayRead_of_gt (a : Ay) {reg : Nat} (h : 15 < reg) : a.read reg = 0 := by
  have hlen : a.regs.toList.length ≤ reg := by rw [Vector.length_toList]; exact h
  rw [Ay.read, List.getD_eq_default _ _ hlen]

/-- A write to a register that does not exist is no command (rule R152). -/
theorem decodeAy_of_gt {reg : Nat} (h : 15 < reg) (v : Word) : decodeAy reg v = none := by
  obtain ⟨k, rfl⟩ : ∃ k, reg = k + 16 := Nat.exists_eq_add_of_le' h
  rfl

/-! ## What the host's command does -/

theorem hostCommand_of_decodeCommand {c : Command} {i : Instr} (h : decodeCommand c = some i) (s : State) :
    hostCommand c s = exec i s := by
  simp only [hostCommand, h]

/-- The AY write that is dropped (rules R152, R357). -/
theorem hostCommand_ay_of_gt {reg : Nat} (h : 15 < reg) (v : Word) (s : State) :
    hostCommand (.ay reg v) s = .next s := by
  have hnone : decodeCommand (.ay reg v) = none := decodeAy_of_gt h v
  simp only [hostCommand, hnone]

/-! ## One step of the host -/

theorem step_ayWrite {s : State} {reg : Nat} {v : Word} {rest : List HostOp}
    (h : s.performing (.ayWrite reg v) rest) : step s = hostCommand (.ay reg v) (s.withQueue rest) := step_op h

/-- The next operation may be replaced by one that does the same. -/
theorem step_eq_of_performOp_eq {s : State} {op op' : HostOp} {rest : List HostOp} (h : s.performing op rest)
    (heq : performOp op (s.withQueue rest) = performOp op' (s.withQueue rest)) :
    step s = step (s.withQueue (op' :: rest)) := by
  have h' : (s.withQueue (op' :: rest)).performing op' rest := ⟨h.1, rfl⟩
  calc step s = performOp op (s.withQueue rest) := step_op h
    _ = performOp op' (s.withQueue rest) := heq
    _ = step (s.withQueue (op' :: rest)) := (step_op h').symm

/-! ## The VGM commands -/

/-- `A0 aa dd` is `AyWrite(aa, dd)` (rule R357). -/
theorem performOp_vgmA0 (aa dd : Byte) (s : State) :
    performOp (.vgmA0 aa dd) s = performOp (.ayWrite aa.toNat (BitVec.ofNat 16 dd.toNat)) s := by
  simp only [performOp, BitVec.ofNat_toNat]

/-- `B4 aa dd` is the bus write of 0x4000 + aa (rule R354). -/
theorem performOp_vgmB4 (aa dd : Byte) (s : State) :
    performOp (.vgmB4 aa dd) s = performOp (.busWrite (BitVec.ofNat 16 (0x4000 + aa.toNat)) dd) s := by
  have haddr : BitVec.ofNat 16 (0x4000 + aa.toNat) = 0x4000 + aa.setWidth 16 := by
    rw [BitVec.ofNat_add, BitVec.ofNat_toNat]
    rfl
  rw [haddr]
  rfl

/-! ## The obligation -/

/-- Settles O39: a register number above 15 decodes to no command, one up to 15 runs the command it decodes to, and the
two VGM commands are the writes they stand for. -/
theorem hostRegisterWrites : Obligations.HostRegisterWrites := by
  refine fun s rest => ⟨?dropped, ?command, ?vgmA0, ?vgmB4⟩
  case dropped =>
    exact fun reg v hreg =>
      ⟨ayRead_of_gt s.ay hreg, fun h => (step_ayWrite h).trans (hostCommand_ay_of_gt hreg v _)⟩
  case command =>
    exact fun reg v i hi h => (step_ayWrite h).trans (hostCommand_of_decodeCommand hi _)
  case vgmA0 =>
    exact fun aa dd h => step_eq_of_performOp_eq h (performOp_vgmA0 aa dd _)
  case vgmB4 =>
    exact fun aa dd h => step_eq_of_performOp_eq h (performOp_vgmB4 aa dd _)

end Sys2Proof.Machine
end

section
/-! SUPPORT and PROOF. The host's `setBlock`: the parts of the bus it leaves alone, the block it appends, the page it
lowers the mapper's base to, and the fifth block it drops. -/

namespace Sys2Proof.Machine

/-! ## What `setBlock` leaves alone -/

/-- A fifth block is dropped (rule R384). -/
theorem setBlock_of_full {b : Bus} (h : 4 ≤ b.blocks.length) (base : Word) (bytes : List Byte) :
    b.setBlock base bytes = b := if_pos h

@[simp] theorem setBlock_mem (b : Bus) (base : Word) (bytes : List Byte) : (b.setBlock base bytes).mem = b.mem := by
  unfold Bus.setBlock; split <;> rfl

@[simp] theorem setBlock_bank (b : Bus) (base : Word) (bytes : List Byte) : (b.setBlock base bytes).bank = b.bank := by
  unfold Bus.setBlock; split <;> rfl

@[simp] theorem setBlock_bankingEnabled (b : Bus) (base : Word) (bytes : List Byte) :
    (b.setBlock base bytes).bankingEnabled = b.bankingEnabled := by
  unfold Bus.setBlock; split <;> rfl

/-! ## What `setBlock` changes while there is room -/

/-- The bus with the block appended (rule R353). -/
theorem setBlock_of_room {b : Bus} (h : b.blocks.length < 4) (base : Word) (bytes : List Byte) :
    b.setBlock base bytes =
      { b with
        blocks := b.blocks ++ [{ base := base, bytes := bytes }]
        mapperBase :=
          if b.blocks = [] then base &&& 0xF000
          else if base &&& 0xF000 ≤ b.mapperBase then base &&& 0xF000 else b.mapperBase } :=
  if_neg (Nat.not_le_of_lt h)

theorem setBlock_blocks_of_room {b : Bus} (h : b.blocks.length < 4) (base : Word) (bytes : List Byte) :
    (b.setBlock base bytes).blocks = b.blocks ++ [{ base := base, bytes := bytes }] := by
  rw [setBlock_of_room h]

/-- The lower of two words is the one with the lower number. -/
theorem toNat_lower_eq_min (page current : Word) :
    (if page ≤ current then page else current).toNat = min current.toNat page.toNat := by
  rw [apply_ite BitVec.toNat, min_comm, min_def]
  rfl

/-- The first block sets the mapper's base to its page, a later one only lowers it (rules R58, R353). -/
theorem setBlock_mapperBase_of_room {b : Bus} (h : b.blocks.length < 4) (base : Word) (bytes : List Byte) :
    (b.setBlock base bytes).mapperBase.toNat =
      if b.blocks = [] then base.toNat / 0x1000 * 0x1000
      else min b.mapperBase.toNat (base.toNat / 0x1000 * 0x1000) := by
  rw [setBlock_of_room h, apply_ite BitVec.toNat, toNat_lower_eq_min, pageBase_toNat]

/-! ## The obligation -/

/-- Settles O12: the step runs `Bus.setBlock` and touches nothing but the bus and the queue. -/
theorem setBlock : Obligations.SetBlock := by
  intro s base bytes rest h
  have hstep : step s = .next { s.withQueue rest with bus := s.bus.setBlock base bytes } := step_op h
  exact ⟨_, hstep, rfl, rfl, rfl, rfl,
    setBlock_mem s.bus base bytes, setBlock_bank s.bus base bytes, setBlock_bankingEnabled s.bus base bytes,
    fun hfull => setBlock_of_full hfull base bytes,
    fun hroom => ⟨setBlock_blocks_of_room hroom base bytes, setBlock_mapperBase_of_room hroom base bytes⟩⟩

end Sys2Proof.Machine
end
